-- ==== Sys2Proof/Word.lean ====
section
/-! DEFINITION. The word of the machine: 16 bits, the one unit its memory is made of.

Follows: 00_scope.md R8, R10; 20_memory.md R50. -/

namespace Sys2Proof

/-- A word: "an unsigned integer in 0..65535" (00_scope.md R10), bit 0 the least significant. -/
abbrev Word := BitVec 16

end Sys2Proof
end

