-- ==== Sys2Proof/Config.lean ====
section
/-! DEFINITION. What an implementation fixes: the constants of 00_scope.md R8, the two parameters that R9 says "a model
takes as arguments", and the free values of MARMBR_POLICY = UNCONSTRAINED. -/

namespace Sys2Proof

/-- `MEM_WORDS`: 4096 words, addresses 0..4095 (00_scope.md R8). -/
def memWords : Nat := 4096

/-- `SP_INIT`: SP "starts at address 4095" (00_scope.md R8). -/
def spInit : Int := 4095

/-- `WORD_MODE`, the width of AC and SP (00_scope.md R9; 92_eei_decisions.md D1, OPEN). -/
inductive WordMode where
  /-- `HW16`: 16-bit two's-complement registers, the spec's default. -/
  | hw16
  /-- `REF_UNBOUNDED`: unbounded integers, as in the reference program. -/
  | refUnbounded
  deriving DecidableEq, Repr

/-- `MARMBR_POLICY`, which accesses MAR and MBR mirror (00_scope.md R9; 92_eei_decisions.md D4, OPEN). -/
inductive MarMbrPolicy where
  /-- `EVERY_ACCESS`: MAR and MBR follow every successful memory access, the spec's default. -/
  | everyAccess
  /-- `UNCONSTRAINED`: after a step that accesses memory MAR and MBR hold freely drawn values. -/
  | unconstrained
  deriving DecidableEq, Repr

/-- The parameters the source leaves open (00_scope.md R9). They are fixed for a machine: no step, load or reset
changes them. The model carries them beside the state (DESIGN CHOICE, log 3, safe: a statement over all states covers every value). -/
structure Config where
  wordMode : WordMode
  marMbrPolicy : MarMbrPolicy
  deriving DecidableEq, Repr

/-- The spec's default for each parameter (00_scope.md R9). -/
def Config.default : Config where
  wordMode := .hw16
  marMbrPolicy := .everyAccess

/-- FREE VALUE (log 4, safe): the value in 0..4095 that MAR holds after the n-th draw under UNCONSTRAINED, "drawn freely by
the model; no rule constrains them" (40_datapath.md R115). It has no body, so nothing can be proved of it but its range. -/
opaque Config.freeMar : Nat → BitVec 12

/-- FREE VALUE (log 4, safe): the word that MBR holds after the n-th draw under UNCONSTRAINED (40_datapath.md R115). -/
opaque Config.freeMbr : Nat → Word

end Sys2Proof
end

