-- ==== Sys2Proof/Machine/State.lean ====
section
/-! DEFINITION. The state of the core: all that 10_state.md R20 lists, the fault record that 60_exceptions.md R208 adds for a
model, and the model's own fields, marked so. Also the four faults, the refusals, and the state after reset. -/

namespace Sys2Proof.Machine

/-- The four faults of the core, each with the value it records (60_exceptions.md R200). A fault does not stop the machine: the
step that raises one ends in a NEXT state, the state of R206, that carries the fault in `raised` and `faultRecord` (log 1),
since R207 lets the host step on. No step answers `Host.Outcome.fault`. -/
inductive Fault where
  /-- Raised by MemRead and MemWrite, at the points of R201, with the address outside 0..4095. Recorded in the next state; safe. -/
  | addressFault (address : Int)
  /-- Raised by decode (R202), with the opcode word. Recorded in the next state; safe. -/
  | illegalOpcode (word : Word)
  /-- Raised by Push (R203), with SP after the decrement, which is -1. Recorded in the next state; safe. -/
  | stackOverflow (sp : Int)
  /-- Raised by Pop (R204), with SP after the increment. Recorded in the next state; safe. -/
  | stackUnderflow (sp : Int)
  deriving DecidableEq, Repr

/-- What the model gives no meaning to. -/
inductive Refusal where
  /-- An instruction with no meaning in the model. No arm of `exec` answers it: all 17 instructions have their meaning. Safe. -/
  | notModelled (mnemonic : String)
  /-- Answered by `hostLoad` for an image of more than 4096 words, which "is refused: the model gives load no meaning for it and
  the state is unchanged" (70_reset_and_hazards.md R232, D12). Never answered by a step. Safe. -/
  | imageTooLong (words : Nat)
  deriving DecidableEq, Repr

/-- Memory as plain data: (address, word) pairs with addresses strictly rising, and no entry that holds 0, which is what an
unlisted address reads as (20_memory.md R50; 70_reset_and_hazards.md R230, R232; log 5, log 6). -/
abbrev Memory := List (Nat × Word)

/-- The state of the core. The first ten fields are 10_state.md R20. -/
structure State where
  /-- `M[0..4095]` (R29). -/
  mem : Memory
  /-- `PC`: the address of the next word fetched, 0..65535 (R22). -/
  pc : Word
  /-- `AC`: the accumulator, a signed integer whose range follows WORD_MODE (R21). -/
  ac : Int
  /-- `SP`: the stack pointer, a signed integer whose range follows WORD_MODE (R23). -/
  sp : Int
  /-- `MAR` (R24). -/
  mar : Word
  /-- `MBR` (R25). -/
  mbr : Word
  /-- `IR`: the opcode word most recently fetched (R26). -/
  ir : Word
  /-- `Z`, the flag `zero` (R27). -/
  flagZ : Bool
  /-- `N`, the flag `negative` (R27). -/
  flagN : Bool
  /-- `RUN`: true is Running, false is Halted (R28). -/
  run : Bool
  /-- The sticky fault record of 60_exceptions.md R208: the first fault raised since the last load or reset. -/
  faultRecord : Option Fault
  /-- MODEL'S OWN (log 1): the fault the latest step raised, if it raised one; the third outcome of step() (41_cycle.md R138). -/
  raised : Option Fault
  /-- MODEL'S OWN (log 3): the parameters of 00_scope.md R9, fixed for a machine. -/
  config : Config
  /-- MODEL'S OWN (log 4): how many free values MAR and MBR have drawn under UNCONSTRAINED. -/
  draws : Nat
  deriving DecidableEq, Repr

/-- A just-constructed core: every word 0, the construction values of 10_state.md R32, and Halted (70_reset_and_hazards.md R230). -/
def State.constructed (config : Config) : State where
  mem := []
  pc := 0#16
  ac := 0
  sp := spInit
  mar := 0#16
  mbr := 0#16
  ir := 0#16
  flagZ := false
  flagN := false
  run := false
  faultRecord := none
  raised := none
  config := config
  draws := 0

/-- The core right after reset() with nothing loaded: the reset values of 10_state.md R32, RUN true, and the memory of
construction, which reset() leaves unchanged (70_reset_and_hazards.md R231, R233; log 6, log 7, log 8). -/
def State.reset : State where
  mem := []
  pc := 0#16
  ac := 0
  sp := spInit
  mar := 0#16
  mbr := 0#16
  ir := 0#16
  flagZ := false
  flagN := false
  run := true
  faultRecord := none
  raised := none
  config := Config.default
  draws := 0

end Sys2Proof.Machine
end

