-- ==== Sys2Proof/Machine/Operands.lean ====
section
/-! DEFINITION. The width functions of 00_scope.md R11 and the three operand forms of 30_encoding.md R84. -/

namespace Sys2Proof.Machine

/-- `mask16(v) = v mod 65536`, the low 16 bits of the two's-complement representation (00_scope.md R11, D13; log 11). -/
def mask16 (v : Int) : Word :=
  BitVec.ofInt 16 v

/-- `zext_16(w)`: the word as a non-negative integer (00_scope.md R11). -/
def zext16 (w : Word) : Int :=
  (w.toNat : Int)

/-- `sext_16(w)`: `w` if `w < 32768`, else `w - 65536` (00_scope.md R11). -/
def sext16 (w : Word) : Int :=
  if w.toNat < 32768 then (w.toNat : Int) else (w.toNat : Int) - 65536

/-- `wrap(v)`, applied to every value written to AC or SP (00_scope.md R11; 40_datapath.md R103, R114). -/
def wrap : WordMode → Int → Int
  | .hw16, v => sext16 (mask16 v)
  | .refUnbounded, v => v

/-- Data address: the operand word as an unsigned memory index, with no offset, base or scaling (30_encoding.md R84). -/
def dataAddress (a : Word) : Int :=
  zext16 a

/-- Jump target: the operand word, copied into PC unchanged (30_encoding.md R84). -/
def jumpTarget (a : Word) : Word :=
  a

/-- Immediate: the operand word used directly; its width is settled when it is written to AC (30_encoding.md R84). -/
def immediate (k : Word) : Word :=
  k

end Sys2Proof.Machine
end

