-- ==== Sys2Proof/Machine/Alu.lean ====
section
/-! DEFINITION. The six ALU functions of 40_datapath.md R100, exact over the integers. The memory operand is always unsigned. -/

namespace Sys2Proof.Machine

/-- `PASS(m) = m` (40_datapath.md R100). -/
def aluPass (m : Word) : Int :=
  zext16 m

/-- `ADD(a, m) = a + m` (40_datapath.md R101). -/
def aluAdd (a : Int) (m : Word) : Int :=
  a + zext16 m

/-- `SUB(a, m) = a - m` (40_datapath.md R101). -/
def aluSub (a : Int) (m : Word) : Int :=
  a - zext16 m

/-- `OR(a, m) = a | m` on the infinite two's-complement representation (40_datapath.md R104). For negative `a` it is the formula of
00_scope.md R10: `-((-a-1) - ((-a-1) & m)) - 1`, `&` being bitwise AND of non-negative numbers (D8; log 11). -/
def aluOr (a : Int) (m : Word) : Int :=
  if a < 0 then
    -(((-a - 1).toNat : Int) - (((-a - 1).toNat &&& m.toNat : Nat) : Int)) - 1
  else
    ((a.toNat ||| m.toNat : Nat) : Int)

/-- `INC(a) = a + 1` (40_datapath.md R100). -/
def aluInc (a : Int) : Int :=
  a + 1

/-- `DEC(a) = a - 1` (40_datapath.md R100). -/
def aluDec (a : Int) : Int :=
  a - 1

end Sys2Proof.Machine
end

