-- ==== Sys2Proof/Machine/Flags.lean ====
section
/-! DEFINITION. The two flags as computed from the value stored, and the conditions of the jumps that read them. There is no
other flag (10_state.md R27; 40_datapath.md R105-R108). -/

namespace Sys2Proof.Machine

/-- `Z`: true iff the value written to AC or SP is exactly 0 (10_state.md R27). -/
def zeroFlag (v : Int) : Bool :=
  decide (v = 0)

/-- `N`: true iff the value written to AC or SP is below 0 (10_state.md R27). -/
def negativeFlag (v : Int) : Bool :=
  decide (v < 0)

/-- The condition of JPOS: `not N and not Z` (43_jumps.md R170). -/
def conditionPositive (z n : Bool) : Bool :=
  !n && !z

/-- The condition of JZER: `Z` (43_jumps.md R172). -/
def conditionZero (z _n : Bool) : Bool :=
  z

/-- The condition of JNEG: `N` (43_jumps.md R173). -/
def conditionNegative (_z n : Bool) : Bool :=
  n

end Sys2Proof.Machine
end

