-- ==== Sys2Proof/Machine/Memory.lean ====
section
/-! DEFINITION. The memory array: its canonical form, and the read and write of one stored word. The bounds check and MAR and MBR
are in Ops.lean. Follows: 10_state.md R29; 20_memory.md R50-R54. -/

namespace Sys2Proof.Machine

/-- A valid address: an integer in 0..4095 (20_memory.md R51). -/
abbrev validAddress (a : Int) : Prop :=
  0 ≤ a ∧ a ≤ 4095

/-- The word an address with no entry holds: construction and load put 0 there (70_reset_and_hazards.md R230, R232). -/
def Memory.unlisted : Word := 0#16

/-- The stored word `M[a]`. -/
def Memory.read : Memory → Nat → Word
  | [], _ => Memory.unlisted
  | (b, w) :: rest, a => if a = b then w else Memory.read rest a

/-- `M[a] <- w`, keeping the canonical form: writing what an unlisted address holds removes the entry. -/
def Memory.write : Memory → Nat → Word → Memory
  | [], a, w => if w = Memory.unlisted then [] else [(a, w)]
  | (b, v) :: rest, a, w =>
    if a < b then
      if w = Memory.unlisted then (b, v) :: rest else (a, w) :: (b, v) :: rest
    else if a = b then
      if w = Memory.unlisted then rest else (a, w) :: rest
    else
      (b, v) :: Memory.write rest a w

/-- The canonical form from address `lo` on: addresses rise strictly, stay below 4096, and no entry holds the unlisted word. -/
def Memory.wfFrom : Nat → Memory → Bool
  | _, [] => true
  | lo, (b, w) :: rest =>
    decide (lo ≤ b) && decide (b < memWords) && decide (w ≠ Memory.unlisted) && Memory.wfFrom (b + 1) rest

/-- The canonical form of a memory. -/
def Memory.wf (m : Memory) : Bool :=
  Memory.wfFrom 0 m

/-- The words of an image written one after the other from address `a` on (the loop of 70_reset_and_hazards.md R232). -/
def Memory.writeImage (m : Memory) (a : Nat) : List Word → Memory
  | [] => m
  | w :: rest => Memory.writeImage (Memory.write m a w) (a + 1) rest

end Sys2Proof.Machine
end

