-- ==== Sys2Proof/Machine/Ops.lean ====
section
/-! DEFINITION. The named operations every meaning is built from: memory accesses with their bounds check and their mirror in MAR
and MBR, the writes of AC, SP, PC, RUN and the flags, the stack primitives, and raising a fault.

Follows: 20_memory.md R52, R53; 40_datapath.md R103-R115; 41_cycle.md R135, R136; 60_exceptions.md R200-R208. -/

namespace Sys2Proof.Machine

/-- What a memory or stack primitive gives: the word it read or stored and the state after it, or a fault and the state with every write
made before the fault (00_scope.md R14). -/
inductive Access where
  | done (word : Word) (after : State)
  | raised (fault : Fault) (after : State)
  deriving DecidableEq, Repr

/-- The code of a fault (60_exceptions.md R200, D6). -/
def Fault.code : Fault → Nat
  | .addressFault _ => 1
  | .illegalOpcode _ => 2
  | .stackOverflow _ => 3
  | .stackUnderflow _ => 4

/-- The value a fault records (60_exceptions.md R200). -/
def Fault.value : Fault → Int
  | .addressFault a => a
  | .illegalOpcode w => zext16 w
  | .stackOverflow v => v
  | .stackUnderflow v => v

/-- The value MAR takes after a successful access to address `a` (40_datapath.md R115). -/
def mirroredAddress (a : Nat) (s : State) : Word :=
  match s.config.marMbrPolicy with
  | .everyAccess => BitVec.ofNat 16 a
  | .unconstrained => (Config.freeMar s.draws).setWidth 16

/-- The value MBR takes after a successful access that read or stored `w` (40_datapath.md R115). -/
def mirroredWord (w : Word) (s : State) : Word :=
  match s.config.marMbrPolicy with
  | .everyAccess => w
  | .unconstrained => Config.freeMbr s.draws

/-- The counter of free values after a successful access: UNCONSTRAINED draws one for MAR and one for MBR (log 4). -/
def drawsAfterAccess (s : State) : Nat :=
  match s.config.marMbrPolicy with
  | .everyAccess => s.draws
  | .unconstrained => s.draws + 1

/-- MAR and MBR after a successful access to `a` that read or stored `w` (40_datapath.md R115). -/
def State.mirror (a : Nat) (w : Word) (s : State) : State :=
  { s with mar := mirroredAddress a s, mbr := mirroredWord w s, draws := drawsAfterAccess s }

/-- `M[a] <- w` in the state. -/
def State.setWord (a : Nat) (w : Word) (s : State) : State :=
  { s with mem := s.mem.write a w }

/-- `MemRead(a, 1)` (20_memory.md R52). -/
def memRead (a : Int) (s : State) : Access :=
  if validAddress a then
    .done (s.mem.read a.toNat) (s.mirror a.toNat (s.mem.read a.toNat))
  else
    .raised (.addressFault a) s

/-- `MemWrite(a, 1, v)`, which stores `mask16(v)` (20_memory.md R53). -/
def memWrite (a : Int) (v : Int) (s : State) : Access :=
  if validAddress a then
    .done (mask16 v) ((s.setWord a.toNat (mask16 v)).mirror a.toNat (mask16 v))
  else
    .raised (.addressFault a) s

/-- `SetAC(v)`: AC takes `wrap(v)`, and the flags follow the value stored (40_datapath.md R105). -/
def State.setAC (v : Int) (s : State) : State :=
  { s with
    ac := wrap s.config.wordMode v
    flagZ := zeroFlag (wrap s.config.wordMode v)
    flagN := negativeFlag (wrap s.config.wordMode v) }

/-- `SP <- wrap(v)` with no flag update, as in Push and Pop (40_datapath.md R107, R114). -/
def State.setSP (v : Int) (s : State) : State :=
  { s with sp := wrap s.config.wordMode v }

/-- `SetSPFlags(v)`: SP takes `wrap(v)`, and the flags follow the value stored (40_datapath.md R106). -/
def State.setSPFlags (v : Int) (s : State) : State :=
  { s with
    sp := wrap s.config.wordMode v
    flagZ := zeroFlag (wrap s.config.wordMode v)
    flagN := negativeFlag (wrap s.config.wordMode v) }

/-- `PC <- target` (00_scope.md R14). -/
def State.setPC (target : Word) (s : State) : State :=
  { s with pc := target }

/-- `PC <- PC + 1`: the fetch increment, and the move past the operand (41_cycle.md R131, R135; log 13). -/
def State.advancePC (s : State) : State :=
  { s with pc := s.pc + 1#16 }

/-- `IR <- w` (41_cycle.md R131). -/
def State.setIR (w : Word) (s : State) : State :=
  { s with ir := w }

/-- `RUN <- false` (10_state.md R28). -/
def State.stop (s : State) : State :=
  { s with run := false }

/-- A step begins with no fault raised (log 1). -/
def State.clearRaised (s : State) : State :=
  { s with raised := none }

/-- The fault goes to the caller and into the sticky record, which keeps the first one (60_exceptions.md R205, R208; log 1, log 2). -/
def State.recordFault (f : Fault) (s : State) : State :=
  { s with raised := some f, faultRecord := s.faultRecord.or (some f) }

/-- `raise F(info)`, the one way a fault is taken: the step ends at once, every write made before it stays and none is made
after it (00_scope.md R14; 41_cycle.md R136). There is no trap entry: nothing is saved, no mode changes, PC goes nowhere and RUN
keeps its value, so the host may step on (60_exceptions.md R207, R210). No instruction returns from a fault (R211). -/
def takeFault (f : Fault) (s : State) : Host.Outcome State Fault Refusal :=
  .next (s.recordFault f)

/-- A primitive followed by the rest of the execute phase, or by taking the fault it raised. -/
def Access.finish (r : Access) (k : Word → State → State) : Host.Outcome State Fault Refusal :=
  match r with
  | .done w t => .next (k w t)
  | .raised f t => takeFault f t

/-- `Push(v)`: write at SP, decrement, and only then the bound check (40_datapath.md R110). -/
def push (v : Int) (s : State) : Access :=
  match memWrite s.sp v s with
  | .raised f t => .raised f t
  | .done w t =>
    if (t.setSP (aluDec t.sp)).sp < 0 then
      .raised (.stackOverflow (t.setSP (aluDec t.sp)).sp) (t.setSP (aluDec t.sp))
    else
      .done w (t.setSP (aluDec t.sp))

/-- `Pop()`: increment SP, then the bound check, then the read (40_datapath.md R111). -/
def pop (s : State) : Access :=
  if 4096 ≤ (s.setSP (aluInc s.sp)).sp then
    .raised (.stackUnderflow (s.setSP (aluInc s.sp)).sp) (s.setSP (aluInc s.sp))
  else
    memRead (s.setSP (aluInc s.sp)).sp (s.setSP (aluInc s.sp))

/-- A jump: PC takes the target if the condition holds, and else moves past the operand (41_cycle.md R135; 43_jumps.md R174). -/
def State.jumpIf (condition : Bool) (target : Word) (s : State) : State :=
  if condition then s.setPC target else s.advancePC

end Sys2Proof.Machine
end

