-- ==== Sys2Proof/Machine/Direct.lean ====
section
/-! DEFINITION. The direct-address and immediate family: LODD, STOD, ADDD, SUBD, STODL, LOCO (42_direct.md R150-R155). Each meaning
starts after the fetch of the opcode word and of the operand word, so PC = p + 1; the move past the operand is its last action. -/

namespace Sys2Proof.Machine

/-- LODD: `AC <- M[A]` (42_direct.md R150). -/
def execLodd (a : Word) (s : State) : Host.Outcome State Fault Refusal :=
  (memRead (dataAddress a) s).finish fun m t => (t.setAC (aluPass m)).advancePC

/-- STOD: `M[A] <- mask16(AC)`; flags unchanged (42_direct.md R151). -/
def execStod (a : Word) (s : State) : Host.Outcome State Fault Refusal :=
  (memWrite (dataAddress a) s.ac s).finish fun _ t => t.advancePC

/-- ADDD: `AC <- AC + M[A]` (42_direct.md R152). -/
def execAddd (a : Word) (s : State) : Host.Outcome State Fault Refusal :=
  (memRead (dataAddress a) s).finish fun m t => (t.setAC (aluAdd t.ac m)).advancePC

/-- SUBD: `AC <- AC - M[A]` (42_direct.md R153). -/
def execSubd (a : Word) (s : State) : Host.Outcome State Fault Refusal :=
  (memRead (dataAddress a) s).finish fun m t => (t.setAC (aluSub t.ac m)).advancePC

/-- STODL: `AC <- AC | M[A]`, a bitwise OR and not a store (42_direct.md R154). -/
def execStodl (a : Word) (s : State) : Host.Outcome State Fault Refusal :=
  (memRead (dataAddress a) s).finish fun m t => (t.setAC (aluOr t.ac m)).advancePC

/-- LOCO: `AC <- K`; no data access, no fault of its own (42_direct.md R155). -/
def execLoco (k : Word) (s : State) : Host.Outcome State Fault Refusal :=
  .next (s.setAC (aluPass (immediate k))).advancePC

end Sys2Proof.Machine
end

