-- ==== Sys2Proof/Machine/Jumps.lean ====
section
/-! DEFINITION. Control transfer: JPOS, JUMP, JZER, JNEG (43_jumps.md R170-R174). All are absolute; the target is not checked. -/

namespace Sys2Proof.Machine

/-- JPOS: jump if strictly positive (43_jumps.md R170). -/
def execJpos (a : Word) (s : State) : Host.Outcome State Fault Refusal :=
  .next (s.jumpIf (conditionPositive s.flagZ s.flagN) (jumpTarget a))

/-- JUMP: `PC <- A` unconditionally (43_jumps.md R171). -/
def execJump (a : Word) (s : State) : Host.Outcome State Fault Refusal :=
  .next (s.setPC (jumpTarget a))

/-- JZER: jump if zero (43_jumps.md R172). -/
def execJzer (a : Word) (s : State) : Host.Outcome State Fault Refusal :=
  .next (s.jumpIf (conditionZero s.flagZ s.flagN) (jumpTarget a))

/-- JNEG: jump if negative (43_jumps.md R173). -/
def execJneg (a : Word) (s : State) : Host.Outcome State Fault Refusal :=
  .next (s.jumpIf (conditionNegative s.flagZ s.flagN) (jumpTarget a))

end Sys2Proof.Machine
end

