-- ==== Sys2Proof/Machine/Stack.lean ====
section
/-! DEFINITION. The stack family: ADDL, INSP, PUSH, POP (44_stack.md R180-R183). PC = p + 1 already, and none changes it. -/

namespace Sys2Proof.Machine

/-- ADDL: `AC <- AC + M[SP]`, the free slot, with SP unchanged (44_stack.md R180; 90_conflicts.md C4). -/
def execAddl (s : State) : Host.Outcome State Fault Refusal :=
  (memRead s.sp s).finish fun m t => t.setAC (aluAdd t.ac m)

/-- INSP: `SP <- SP + 1` with the flags from SP and no bound check (44_stack.md R181). -/
def execInsp (s : State) : Host.Outcome State Fault Refusal :=
  .next (s.setSPFlags (aluInc s.sp))

/-- PUSH: `Push(AC)`; flags unchanged (44_stack.md R182). -/
def execPush (s : State) : Host.Outcome State Fault Refusal :=
  (push s.ac s).finish fun _ t => t

/-- POP: `AC <- Pop()` with the flags from AC (44_stack.md R183). -/
def execPop (s : State) : Host.Outcome State Fault Refusal :=
  (pop s).finish fun m t => t.setAC (aluPass m)

end Sys2Proof.Machine
end

