-- ==== Sys2Proof/Machine/System.lean ====
section
/-! DEFINITION. HALT and the two reserved no-ops INS and OUT (45_system.md R190-R192). -/

namespace Sys2Proof.Machine

/-- HALT: `RUN <- false` (45_system.md R190). -/
def execHalt (s : State) : Host.Outcome State Fault Refusal :=
  .next s.stop

/-- INS: "reserved no-op (input device not modeled)"; the execute phase does nothing (45_system.md R191). -/
def execIns (s : State) : Host.Outcome State Fault Refusal :=
  .next s

/-- OUT: "reserved no-op (output device not modeled)"; the execute phase does nothing (45_system.md R192). -/
def execOut (s : State) : Host.Outcome State Fault Refusal :=
  .next s

end Sys2Proof.Machine
end

