-- ==== Sys2Proof/Syntax.lean ====
section
/-! DEFINITION. The instructions: one constructor for each of the 17 rows of 30_encoding.md R86, in the table's order. A
Format A instruction carries its operand word (R83); "The operand word has no internal fields and no reserved values". -/

namespace Sys2Proof

/-- The 17 instructions (30_encoding.md R86). `a` is a data address or a jump target, `k` the immediate of LOCO (R84). -/
inductive Instr where
  | halt
  | lodd (a : Word)
  | stod (a : Word)
  | addd (a : Word)
  | subd (a : Word)
  | jpos (a : Word)
  | stodl (a : Word)
  | loco (k : Word)
  | jump (a : Word)
  | jzer (a : Word)
  | jneg (a : Word)
  | addl
  | insp
  | push
  | pop
  | ins
  | out
  deriving DecidableEq, Repr

end Sys2Proof
end

