-- ==== Sys2Proof/Machine/Dispatch.lean ====
section
/-! DEFINITION. The execute phase: one arm for each instruction, each a call of its meaning (41_cycle.md R134). -/

namespace Sys2Proof.Machine

def exec (i : Instr) (s : State) : Host.Outcome State Fault Refusal :=
  match i with
  | .halt => Sys2Proof.Machine.execHalt s
  | .lodd a => Sys2Proof.Machine.execLodd a s
  | .stod a => Sys2Proof.Machine.execStod a s
  | .addd a => Sys2Proof.Machine.execAddd a s
  | .subd a => Sys2Proof.Machine.execSubd a s
  | .jpos a => Sys2Proof.Machine.execJpos a s
  | .stodl a => Sys2Proof.Machine.execStodl a s
  | .loco k => Sys2Proof.Machine.execLoco k s
  | .jump a => Sys2Proof.Machine.execJump a s
  | .jzer a => Sys2Proof.Machine.execJzer a s
  | .jneg a => Sys2Proof.Machine.execJneg a s
  | .addl => Sys2Proof.Machine.execAddl s
  | .insp => Sys2Proof.Machine.execInsp s
  | .push => Sys2Proof.Machine.execPush s
  | .pop => Sys2Proof.Machine.execPop s
  | .ins => Sys2Proof.Machine.execIns s
  | .out => Sys2Proof.Machine.execOut s

end Sys2Proof.Machine
end

