-- ==== Sys2Proof/WellFormed.lean ====
section
/-! DEFINITION. What is well formed: an opcode word, an instruction's word sequence, and a program image.

An `Instr` has no ill-formed value: an operand is a `Word` by its type, and every word is a legal operand (30_encoding.md R83). What can
be ill formed is what comes from outside: an opcode word (R81, R87), a word sequence of the wrong length for its opcode (R85),
an image that does not fit the memory (70_reset_and_hazards.md R232). -/

namespace Sys2Proof

/-- A legal opcode word: bits [15:8] are 0 and bits [7:0] name one of the 17 opcodes 0x00..0x10 (30_encoding.md R81, R86, R87). -/
def opcodeWordWf (w : Word) : Bool :=
  w.extractLsb' 8 8 == 0#8 && decide ((w.extractLsb' 0 8).toNat ≤ 0x10)

/-- The number of words a legal opcode word asks for: two for Format A (0x01..0x0A), one for Format N (30_encoding.md R85). -/
def lengthOfOpcodeWord (w : Word) : Nat :=
  if 0x01 ≤ w.toNat ∧ w.toNat ≤ 0x0A then 2 else 1

/-- One instruction's words: a legal opcode word, and exactly as many words as it asks for (30_encoding.md R80, R85). -/
def instrWordsWf : List Word → Bool
  | [] => false
  | w :: rest => opcodeWordWf w && decide ((w :: rest).length = lengthOfOpcodeWord w)

/-- An instruction of the table is well formed whatever its operand word (30_encoding.md R83). -/
def Instr.wf : Instr → Bool
  | .halt => true
  | .lodd _ => true
  | .stod _ => true
  | .addd _ => true
  | .subd _ => true
  | .jpos _ => true
  | .stodl _ => true
  | .loco _ => true
  | .jump _ => true
  | .jzer _ => true
  | .jneg _ => true
  | .addl => true
  | .insp => true
  | .push => true
  | .pop => true
  | .ins => true
  | .out => true

/-- A program image that `load` accepts: at most 4096 integers (70_reset_and_hazards.md R232, "require n <= 4096"). -/
def imageWf (words : List Int) : Bool :=
  decide (words.length ≤ memWords)

end Sys2Proof
end

