-- ==== Sys2Proof/Decode.lean ====
section
/-! DEFINITION. The decoder, total on every list of words, and after it the encoder.

Follows: 30_encoding.md R80-R91, 41_cycle.md R132. The decoder works in the two stages of the machine: the opcode word
alone selects one of 17 opcodes and with it the length (R85); the operand word is taken only after that. -/

namespace Sys2Proof

/-- The 17 opcodes, before any operand is read: "a closed tagged-variant (sum type) over the 17 opcodes" (41_cycle.md R132). -/
inductive Opcode where
  | halt | lodd | stod | addd | subd | jpos | stodl | loco | jump | jzer | jneg
  | addl | insp | push | pop | ins | out
  deriving DecidableEq, Repr

/-- The two formats (30_encoding.md R82, R83). -/
inductive Format where
  /-- Format N: one word, no operand. -/
  | n
  /-- Format A: an opcode word and one operand word. -/
  | a
  deriving DecidableEq, Repr

/-- Why a word sequence is no instruction. -/
inductive DecodeError where
  /-- There is no opcode word. -/
  | noOpcodeWord
  /-- The opcode word is none of the 17 (30_encoding.md R87). -/
  | illegalOpcode (w : Word)
  /-- A Format A opcode word with no word after it (41_cycle.md R133). -/
  | noOperandWord (op : Opcode)
  deriving DecidableEq, Repr

/-- The opcode map on the whole 16-bit word (30_encoding.md R81, R86): every word above 0x0010 is illegal (R87). -/
def decodeOpcode (w : Word) : Option Opcode :=
  match w.toNat with
  | 0x00 => some .halt
  | 0x01 => some .lodd
  | 0x02 => some .stod
  | 0x03 => some .addd
  | 0x04 => some .subd
  | 0x05 => some .jpos
  | 0x06 => some .stodl
  | 0x07 => some .loco
  | 0x08 => some .jump
  | 0x09 => some .jzer
  | 0x0A => some .jneg
  | 0x0B => some .addl
  | 0x0C => some .insp
  | 0x0D => some .push
  | 0x0E => some .pop
  | 0x0F => some .ins
  | 0x10 => some .out
  | _ => none

/-- The format column of 30_encoding.md R86. -/
def Opcode.format : Opcode → Format
  | .halt => .n
  | .lodd => .a
  | .stod => .a
  | .addd => .a
  | .subd => .a
  | .jpos => .a
  | .stodl => .a
  | .loco => .a
  | .jump => .a
  | .jzer => .a
  | .jneg => .a
  | .addl => .n
  | .insp => .n
  | .push => .n
  | .pop => .n
  | .ins => .n
  | .out => .n

/-- The instruction of an opcode and its operand word; a Format N opcode takes no operand and ignores it. -/
def Opcode.instr (operand : Word) : Opcode → Instr
  | .halt => .halt
  | .lodd => .lodd operand
  | .stod => .stod operand
  | .addd => .addd operand
  | .subd => .subd operand
  | .jpos => .jpos operand
  | .stodl => .stodl operand
  | .loco => .loco operand
  | .jump => .jump operand
  | .jzer => .jzer operand
  | .jneg => .jneg operand
  | .addl => .addl
  | .insp => .insp
  | .push => .push
  | .pop => .pop
  | .ins => .ins
  | .out => .out

/-- The mnemonic column of 30_encoding.md R86, as the table spells it. -/
def Opcode.mnemonic : Opcode → String
  | .halt => "HALT"
  | .lodd => "LODD"
  | .stod => "STOD"
  | .addd => "ADDD"
  | .subd => "SUBD"
  | .jpos => "JPOS"
  | .stodl => "STODL"
  | .loco => "LOCO"
  | .jump => "JUMP"
  | .jzer => "JZER"
  | .jneg => "JNEG"
  | .addl => "ADDL"
  | .insp => "INSP"
  | .push => "PUSH"
  | .pop => "POP"
  | .ins => "INS"
  | .out => "OUT"

/-- The instruction at the head of a word sequence, and the words after it (30_encoding.md R80, R85, R91). -/
def decode : List Word → Except DecodeError (Instr × List Word)
  | [] => .error .noOpcodeWord
  | w :: rest =>
    match decodeOpcode w with
    | none => .error (.illegalOpcode w)
    | some op =>
      match op.format, rest with
      | .n, _ => .ok (op.instr 0, rest)
      | .a, [] => .error (.noOperandWord op)
      | .a, k :: rest' => .ok (op.instr k, rest')

/-- The opcode of an instruction. -/
def Instr.opcode : Instr → Opcode
  | .halt => .halt
  | .lodd _ => .lodd
  | .stod _ => .stod
  | .addd _ => .addd
  | .subd _ => .subd
  | .jpos _ => .jpos
  | .stodl _ => .stodl
  | .loco _ => .loco
  | .jump _ => .jump
  | .jzer _ => .jzer
  | .jneg _ => .jneg
  | .addl => .addl
  | .insp => .insp
  | .push => .push
  | .pop => .pop
  | .ins => .ins
  | .out => .out

/-- The opcode word column of 30_encoding.md R86. -/
def Opcode.word : Opcode → Word
  | .halt => 0x0000#16
  | .lodd => 0x0001#16
  | .stod => 0x0002#16
  | .addd => 0x0003#16
  | .subd => 0x0004#16
  | .jpos => 0x0005#16
  | .stodl => 0x0006#16
  | .loco => 0x0007#16
  | .jump => 0x0008#16
  | .jzer => 0x0009#16
  | .jneg => 0x000A#16
  | .addl => 0x000B#16
  | .insp => 0x000C#16
  | .push => 0x000D#16
  | .pop => 0x000E#16
  | .ins => 0x000F#16
  | .out => 0x0010#16

/-- The encoder: the words of an instruction, opcode word first (30_encoding.md R82, R83, R86). -/
def encode : Instr → List Word
  | .halt => [0x0000#16]
  | .lodd a => [0x0001#16, a]
  | .stod a => [0x0002#16, a]
  | .addd a => [0x0003#16, a]
  | .subd a => [0x0004#16, a]
  | .jpos a => [0x0005#16, a]
  | .stodl a => [0x0006#16, a]
  | .loco k => [0x0007#16, k]
  | .jump a => [0x0008#16, a]
  | .jzer a => [0x0009#16, a]
  | .jneg a => [0x000A#16, a]
  | .addl => [0x000B#16]
  | .insp => [0x000C#16]
  | .push => [0x000D#16]
  | .pop => [0x000E#16]
  | .ins => [0x000F#16]
  | .out => [0x0010#16]

/-- Word `k` of an instruction whose bits are `v`, bit 0 being the least significant bit of word 0. -/
def tableWord (v k : Nat) : Word :=
  BitVec.ofNat 16 (v >>> (16 * k))

/-- The instruction the decoder reads from an instruction whose lowest `nbits` bits are those of `w` and whose other bits are
0: the first word is bits [15:0], the operand word bits [31:16]. -/
def decodeTableWord (nbits w : Nat) : Option Instr :=
  match decode [tableWord (w % 2 ^ nbits) 0, tableWord (w % 2 ^ nbits) 1] with
  | .ok (i, _) => some i
  | .error _ => none

end Sys2Proof
end

