-- ==== Sys2Proof/Machine/Fetch.lean ====
section
/-! DEFINITION. What a step does before the execute phase: the run-state check, the off-end check, the fetch of the opcode word, its
decoding and the operand fetch (41_cycle.md R130-R133, R137; 60_exceptions.md R209). -/

namespace Sys2Proof.Machine

/-- What the part of a step before the execute phase gives. -/
inductive Fetched where
  /-- An instruction to execute, PC pointing one word past the opcode word. -/
  | instr (i : Instr) (after : State)
  /-- The step is over: the engine was Halted, or PC ran off the end. -/
  | stopped (after : State)
  /-- The step is over with a fault. -/
  | raised (fault : Fault) (after : State)
  deriving DecidableEq, Repr

/-- The word at PC, read as a memory access (41_cycle.md R131, R133). -/
def fetchWord (s : State) : Access :=
  memRead (zext16 s.pc) s

/-- The end of the fetch: `IR <- w; PC <- PC + 1` (41_cycle.md R131). -/
def State.latchOpcode (w : Word) (s : State) : State :=
  (s.setIR w).advancePC

/-- `OperandFetch()` for a Format A opcode; PC is not changed here (41_cycle.md R133). -/
def fetchOperand (op : Opcode) (s : State) : Fetched :=
  match fetchWord s with
  | .done k t => .instr (op.instr k) t
  | .raised f t => .raised f t

/-- `Decode(IR)`, and after it the operand fetch that the format asks for (41_cycle.md R132, R133; 30_encoding.md R85). -/
def decodeFetched (w : Word) (s : State) : Fetched :=
  match decodeOpcode w with
  | none => .raised (.illegalOpcode w) s
  | some op =>
    match op.format with
    | .n => .instr (op.instr 0) s
    | .a => fetchOperand op s

/-- Fetch, decode and operand fetch of a Running engine with PC in 0..4095. -/
def fetchInstr (s : State) : Fetched :=
  match fetchWord s with
  | .done w t => decodeFetched w (t.latchOpcode w)
  | .raised f t => .raised f t

/-- A step up to the execute phase: a Halted engine does nothing, and PC >= 4096 stops the engine with no memory access and IR
unchanged (41_cycle.md R130, R131, R137). -/
def beginStep (s : State) : Fetched :=
  if s.run = false then
    .stopped s.clearRaised
  else if memWords ≤ s.pc.toNat then
    .stopped s.clearRaised.stop
  else
    fetchInstr s.clearRaised

end Sys2Proof.Machine
end

