-- ==== Sys2Proof/Machine/Step.lean ====
section
/-! DEFINITION. One step: fetch, decode and execute as one atomic unit (41_cycle.md R137). -/

namespace Sys2Proof.Machine

/-- `step()` (41_cycle.md R137). It always answers a next state; what the host gets back is `State.stepResult` of it. -/
def step (s : State) : Host.Outcome State Fault Refusal :=
  match beginStep s with
  | .stopped t => .next t
  | .raised f t => takeFault f t
  | .instr i t => exec i t

/-- Where `withFetchWord` puts its instruction: at PC, or at 0 where two words at PC would not fit the memory (log 8). -/
def State.placeAddress (s : State) : Nat :=
  if s.pc.toNat + 1 < memWords then s.pc.toNat else 0

/-- `s` Running, with the instruction whose lowest `nbits` bits are those of `w` and whose other bits are 0 in the two words at PC. -/
def State.withFetchWord (s : State) (nbits w : Nat) : State :=
  { s with
    run := true
    pc := BitVec.ofNat 16 s.placeAddress
    mem := (s.mem.write s.placeAddress (tableWord (w % 2 ^ nbits) 0)).write (s.placeAddress + 1)
      (tableWord (w % 2 ^ nbits) 1) }

end Sys2Proof.Machine
end

