-- ==== Sys2Proof/Machine/Interface.lean ====
section
/-! DEFINITION. The host's operations beside step(): load, reset, the snapshot, the memory query and the advisory mnemonic, and what
step() returns (00_scope.md R7; 41_cycle.md R138, R140, R141; 70_reset_and_hazards.md R231-R233; log 16). -/

namespace Sys2Proof.Machine

/-- The register reset: PC, AC, SP, MAR, MBR, IR, Z, N at their reset values and the fault record cleared; memory, RUN and the
parameters untouched (70_reset_and_hazards.md R231; 10_state.md R32). -/
def State.registerReset (s : State) : State :=
  { s with
    pc := 0#16, ac := 0, sp := spInit, mar := 0#16, mbr := 0#16, ir := 0#16, flagZ := false, flagN := false
    faultRecord := none, raised := none }

/-- `RUN <- true`, which only load and reset do (10_state.md R28). -/
def State.start (s : State) : State :=
  { s with run := true }

/-- `reset()`: register reset and RUN true, memory kept (70_reset_and_hazards.md R233). -/
def hostReset (s : State) : State :=
  s.registerReset.start

/-- Memory cleared to zero, then the words written from address 0, each masked to 16 bits (70_reset_and_hazards.md R232). -/
def loadedMemory (words : List Int) : Memory :=
  Memory.writeImage [] 0 (words.map mask16)

/-- `load(words)`; an image of more than 4096 words is refused (70_reset_and_hazards.md R232, D12; log 15). -/
def hostLoad (words : List Int) (s : State) : Host.Outcome State Fault Refusal :=
  if imageWf words then
    .next { s with mem := loadedMemory words }.registerReset.start
  else
    .refused (.imageTooLong words.length)

/-- What step() returns or raises (41_cycle.md R137, R138; 60_exceptions.md R205). -/
inductive StepResult where
  | continued
  | stopped
  | raised (fault : Fault)
  deriving DecidableEq, Repr

/-- The outcome of the step that led to a state: the fault it raised, or else Stopped if RUN is false and Continue if it is true. -/
def State.stepResult (s : State) : StepResult :=
  match s.raised with
  | some f => .raised f
  | none => if s.run then .continued else .stopped

/-- `peek_next_instruction_name()`: the mnemonic of the word at PC, or "none"; whatever RUN is, and no memory access
(41_cycle.md R140, D15). -/
def peekNextInstructionName (s : State) : String :=
  if s.pc.toNat < memWords then
    match decodeOpcode (s.mem.read s.pc.toNat) with
    | some op => op.mnemonic
    | none => "none"
  else
    "none"

/-- The read-only memory query for a in 0..4095, no memory access (41_cycle.md R141, D14). -/
def memQuery (a : Nat) (s : State) : Option Word :=
  if a < memWords then some (s.mem.read a) else none

/-- The observable state of 41_cycle.md R141. -/
structure Snapshot where
  pc : Word
  ac : Int
  sp : Int
  mar : Word
  mbr : Word
  ir : Word
  zero : Bool
  negative : Bool
  running : Bool
  nextInstructionName : String
  deriving DecidableEq, Repr

/-- `snapshot()`: read only (41_cycle.md R141). -/
def snapshot (s : State) : Snapshot where
  pc := s.pc
  ac := s.ac
  sp := s.sp
  mar := s.mar
  mbr := s.mbr
  ir := s.ir
  zero := s.flagZ
  negative := s.flagN
  running := s.run
  nextInstructionName := peekNextInstructionName s

end Sys2Proof.Machine
end

