-- ==== Sys2Proof/Safety.lean ====
section
/-! DEFINITION. What counts as a safe run, the invariant of the core's states, and the relations that claims are stated with. -/

namespace Sys2Proof.Machine

/-- The premise of claims about a run: "no fault recorded" (41_cycle.md R139; 92_eei_decisions.md D7). -/
abbrev State.Safe (s : State) : Prop :=
  s.faultRecord = none

/-- A value a register of the given width can hold: -32768..32767 under HW16, any integer under REF_UNBOUNDED (10_state.md R21, R23). -/
abbrev InMode (mode : WordMode) (v : Int) : Prop :=
  mode = .hw16 → -32768 ≤ v ∧ v ≤ 32767

/-- A fault with a value it can record (60_exceptions.md R200, R202-R204): an address outside 0..4095, an illegal opcode word, SP = -1
after an overflow, SP >= 4096 after an underflow. -/
def Fault.valid : Fault → Bool
  | .addressFault a => decide (¬ validAddress a)
  | .illegalOpcode w => decide (0x0010 < w.toNat)
  | .stackOverflow v => decide (v = -1)
  | .stackUnderflow v => decide (4096 ≤ v)

/-- What holds of every state the core can be in. -/
structure State.Inv (s : State) : Prop where
  /-- Memory is in its canonical form. -/
  memWf : s.mem.wf = true
  /-- AC is in the range of its width (R21). -/
  acRange : InMode s.config.wordMode s.ac
  /-- SP is in the range of its width (R23). -/
  spRange : InMode s.config.wordMode s.sp
  /-- "In REF_UNBOUNDED SP is never below -1" (R23). -/
  spFloor : s.config.wordMode = .refUnbounded → -1 ≤ s.sp
  /-- "MAR is always in 0..4095" (R24). -/
  marRange : s.mar.toNat ≤ 4095
  /-- "Z and N are never both true" (R27). -/
  flagsExclusive : ¬ (s.flagZ = true ∧ s.flagN = true)
  /-- A Halted engine's last step raised nothing: a fault does not change RUN (60_exceptions.md R207). -/
  haltedQuiet : s.run = false → s.raised = none
  /-- A fault just raised is on record (60_exceptions.md R208). -/
  raisedRecorded : s.raised.isSome = true → s.faultRecord.isSome = true
  /-- The fault just raised records a value it can have (60_exceptions.md R200). -/
  raisedValid : ∀ f, s.raised = some f → f.valid = true
  /-- The fault on record holds a value it can have (60_exceptions.md R200). -/
  recordValid : ∀ f, s.faultRecord = some f → f.valid = true

/-- The states the host can bring the core to with the operations of 00_scope.md R7, from construction on. -/
inductive Reachable : State → Prop where
  | constructed (config : Config) : Reachable (State.constructed config)
  | reset {s : State} : Reachable s → Reachable (hostReset s)
  | load {s t : State} (words : List Int) : Reachable s → hostLoad words s = .next t → Reachable t
  | step {s t : State} : Reachable s → step s = .next t → Reachable t

/-- Every word of memory reads in `t` as it reads in `s`. -/
def SameMemory (s t : State) : Prop :=
  ∀ a, t.mem.read a = s.mem.read a

/-- Every word of memory but the one at `a` reads in `t` as it reads in `s`. -/
def SameMemoryBut (a : Nat) (s t : State) : Prop :=
  ∀ b, b ≠ a → t.mem.read b = s.mem.read b

/-- IR, RUN and the parameters are in `t` what they are in `s`. -/
structure SameControl (s t : State) : Prop where
  ir : t.ir = s.ir
  run : t.run = s.run
  config : t.config = s.config

/-- No fault was raised between `s` and `t`. -/
structure NothingRaised (s t : State) : Prop where
  raised : t.raised = s.raised
  faultRecord : t.faultRecord = s.faultRecord

/-- The fault `f` was raised between `s` and `t`: it goes to the caller, and into the record unless that holds an earlier one. -/
structure FaultTaken (f : Fault) (s t : State) : Prop where
  raised : t.raised = some f
  faultRecord : t.faultRecord = s.faultRecord.or (some f)

/-- The flags are those of the value `v`. -/
structure FlagsOf (v : Int) (t : State) : Prop where
  zero : t.flagZ = decide (v = 0)
  negative : t.flagN = decide (v < 0)

/-- The flags are in `t` what they are in `s`. -/
structure SameFlags (s t : State) : Prop where
  zero : t.flagZ = s.flagZ
  negative : t.flagN = s.flagN

/-- MAR and MBR in `t` mirror the access of word `w` at address `a`, made from `s` (40_datapath.md R115). -/
structure Mirrors (a : Nat) (w : Word) (s t : State) : Prop where
  everyAccess : s.config.marMbrPolicy = .everyAccess → t.mar = BitVec.ofNat 16 a ∧ t.mbr = w
  unconstrained : s.config.marMbrPolicy = .unconstrained → t.mar.toNat ≤ 4095

/-- MAR and MBR are in `t` what they are in `s`. -/
structure SameMirror (s t : State) : Prop where
  mar : t.mar = s.mar
  mbr : t.mbr = s.mbr
  draws : t.draws = s.draws

/-- `s` and `u` agree in everything but MAR, MBR and the policy that sets them (10_state.md R33). -/
structure AgreeButMirror (s u : State) : Prop where
  mem : u.mem = s.mem
  pc : u.pc = s.pc
  ac : u.ac = s.ac
  sp : u.sp = s.sp
  ir : u.ir = s.ir
  flagZ : u.flagZ = s.flagZ
  flagN : u.flagN = s.flagN
  run : u.run = s.run
  faultRecord : u.faultRecord = s.faultRecord
  raised : u.raised = s.raised
  wordMode : u.config.wordMode = s.config.wordMode

/-- `s`, a HW16 core, and `u`, a REF_UNBOUNDED core, agree as 40_datapath.md R109 says, flags apart. -/
structure AgreeButFlags (s u : State) : Prop where
  hw16 : s.config.wordMode = .hw16
  refUnbounded : u.config.wordMode = .refUnbounded
  hwPolicy : s.config.marMbrPolicy = .everyAccess
  refPolicy : u.config.marMbrPolicy = .everyAccess
  mem : u.mem = s.mem
  ac : mask16 u.ac = mask16 s.ac
  sp : u.sp = s.sp
  pc : u.pc = s.pc
  ir : u.ir = s.ir
  run : u.run = s.run
  mar : u.mar = s.mar
  mbr : u.mbr = s.mbr
  faultRecord : u.faultRecord = s.faultRecord
  raised : u.raised = s.raised

/-- `s`, a HW16 core, and `u`, a REF_UNBOUNDED core, agree in everything R109 names and in the flags. -/
structure ModesAgree (s u : State) : Prop extends AgreeButFlags s u where
  flagZ : u.flagZ = s.flagZ
  flagN : u.flagN = s.flagN

/-- `k` steps, one after the other, as a host takes them that calls step() `k` times whatever it returns (41_cycle.md R130, R139). -/
def runSteps : Nat → State → Host.Outcome State Fault Refusal
  | 0, s => .next s
  | k + 1, s =>
    match step s with
    | .next t => runSteps k t
    | .fault f => .fault f
    | .refused r => .refused r

/-- Pushing the values one after the other, oldest first; the first fault ends it. -/
def pushAll : List Int → State → Access
  | [], s => .done 0#16 s
  | [v], s => push v s
  | v :: rest, s =>
    match push v s with
    | .done _ t => pushAll rest t
    | .raised f t => .raised f t

end Sys2Proof.Machine
end

