-- ==== Sys2Proof/Certificates/Slice0/Obligations.lean ====
section
/-! DEFINITION. The statements for the provers. `p` is the address of an instruction's opcode word; `exec` starts after the fetch of
the opcode word and of the operand word, where PC = p + 1 (00_scope.md R15; log 10). A fault is reported in the next
state's `raised` (log 1) and kept in its fault record (60_exceptions.md R208, the spec's own choice D7; log 2). -/

open Sys2Proof Sys2Proof.Machine

namespace Sys2Proof.Machine

/-- The opcode fetched by a step from `s`: the step runs, PC is in 0..4095 and the word there is the opcode's. -/
structure Fetches (op : Opcode) (s : State) : Prop where
  running : s.run = true
  inRange : s.pc.toNat ≤ 4095
  opcodeWord : s.mem.read s.pc.toNat = op.word

/-- The operand fetch of the Format A opcode `op` at p = 4095 raises AddressFault(4096): PC = 4096, IR = the opcode word, MAR and MBR as
the opcode fetch left them, and nothing else changed (41_cycle.md R133, R136; 60_exceptions.md R206). -/
def OperandFetchFaults (op : Opcode) : Prop :=
  ∀ s : State, Fetches op s → s.pc.toNat = 4095 →
    ∃ t, step s = .next t ∧ FaultTaken (.addressFault 4096) s t ∧ t.pc.toNat = 4096 ∧ t.ir = op.word ∧ t.ac = s.ac ∧
      t.sp = s.sp ∧ SameFlags s t ∧ t.run = s.run ∧ t.config = s.config ∧ SameMemory s t ∧ Mirrors 4095 op.word s t

/-- An execute phase that raises `f` and does nothing else. -/
structure FaultsOnly (f : Fault) (s t : State) : Prop where
  taken : FaultTaken f s t
  pc : t.pc = s.pc
  ac : t.ac = s.ac
  sp : t.sp = s.sp
  flags : SameFlags s t
  control : SameControl s t
  memory : SameMemory s t
  mirror : SameMirror s t

/-- The data access of a direct instruction with A >= 4096 raises AddressFault(A), with nothing else changed: PC = p + 1 (the spec's own
choice D5; log 10). -/
def DataAccessFaults (i : Word → Instr) : Prop :=
  ∀ (a : Word) (s : State), 4096 ≤ a.toNat →
    ∃ t, exec (i a) s = .next t ∧ FaultsOnly (.addressFault a.toNat) s t

/-- A direct instruction that reads `m = M[A]`, A in 0..4095, and writes `result AC m` to AC, wrapped to AC's width, with the flags of the
value stored: PC moves past the operand, MAR and MBR mirror the read, and nothing else changes. -/
def WritesAccumulator (i : Word → Instr) (result : Int → Word → Int) : Prop :=
  ∀ (a : Word) (s : State), a.toNat ≤ 4095 →
    ∃ t, exec (i a) s = .next t ∧ t.ac = wrap s.config.wordMode (result s.ac (s.mem.read a.toNat)) ∧ FlagsOf t.ac t ∧
      t.pc = s.pc + 1#16 ∧ t.sp = s.sp ∧ SameControl s t ∧ NothingRaised s t ∧ SameMemory s t ∧
      Mirrors a.toNat (s.mem.read a.toNat) s t

end Sys2Proof.Machine

/-! ### Encoding -/

/-- R80, R83, R85, R86: the decoder reads instruction `i` from a word sequence exactly when the sequence begins with the words of `i`, which
is well formed; what it leaves is what follows them. So `decode (encode i ++ rest)` is `i` and `rest`, and no two encodings overlap. That
the whole opcode word counts, so that a word with a nonzero upper byte is none of the 17 opcodes, is the spec's own choice D2 (log 9). -/
def Obligations.DecodeInvertsEncode : Prop :=
  ∀ (words : List Word) (i : Instr) (rest : List Word),
    decode words = .ok (i, rest) ↔ i.wf = true ∧ words = encode i ++ rest

/-- R81, R87, R91: the words 0x0011..0xFFFF are illegal and are refused by name, words with a nonzero upper byte among them (the spec's own
choice D2; log 9), and no other word is. -/
def Obligations.IllegalWordsAreRefused : Prop :=
  ∀ (w : Word) (rest : List Word),
    (decode (w :: rest) = .error (.illegalOpcode w) ↔ 0x0011 ≤ w.toNat) ∧
      (opcodeWordWf w = true ↔ w.toNat ≤ 0x0010) ∧
      (w.extractLsb' 8 8 ≠ 0#8 → decode (w :: rest) = .error (.illegalOpcode w))

/-- R92: the words of the example programs decode to their instructions; and 0x0011, 0x0101 and 0x0100 do not decode. That 0x0101 and 0x0100
are illegal is the spec's own choice D2 (log 9). -/
def Obligations.SampleWordsDecode : Prop :=
  decode [0x0000#16] = .ok (.halt, []) ∧
    decode [0x0007#16, 0x0005#16, 0x0002#16] = .ok (.loco 5#16, [0x0002#16]) ∧
    decode [0x0002#16, 0x0064#16] = .ok (.stod 100#16, []) ∧
    decode [0x0001#16, 0x0064#16] = .ok (.lodd 100#16, []) ∧
    decode [0x000A#16, 0x0006#16] = .ok (.jneg 6#16, []) ∧
    decode [0x0006#16, 0x0032#16] = .ok (.stodl 50#16, []) ∧
    decode [0x000E#16] = .ok (.pop, []) ∧
    decode [0x0011#16] = .error (.illegalOpcode 0x0011#16) ∧
    decode [0x0101#16] = .error (.illegalOpcode 0x0101#16) ∧
    decode [0x0100#16] = .error (.illegalOpcode 0x0100#16)

/-! ### Memory -/

/-- R51, R52, R53: an access completes exactly at the addresses 0..4095; at any other integer it raises AddressFault with that address and
leaves the state as it was. -/
def Obligations.AccessFaultsOutsideMemory : Prop :=
  ∀ (a v : Int) (s : State),
    (0 ≤ a ∧ a ≤ 4095 → (∃ t, memRead a s = .done (s.mem.read a.toNat) t ∧ t.mem = s.mem) ∧
      ∃ t, memWrite a v s = .done (mask16 v) t) ∧
    (a < 0 ∨ 4096 ≤ a → memRead a s = .raised (.addressFault a) s ∧ memWrite a v s = .raised (.addressFault a) s)

/-- R61: a read returns the word of the most recent write of its address, `v mod 65536`, and every other address reads as before the write.
The residue of a negative v is the spec's own choice D13 (log 11). -/
def Obligations.MemReadReturnsLatestWrite : Prop :=
  ∀ (a b v : Int) (s t : State) (w : Word), s.mem.wf = true → memWrite a v s = .done w t → 0 ≤ b → b ≤ 4095 →
    ∃ u, memRead b t = .done (if b = a then BitVec.ofInt 16 v else s.mem.read b.toNat) u ∧ u.mem = t.mem ∧ t.mem.wf = true

/-- The canonical form is canonical (log 5): two well-formed memories that read the same everywhere are equal data. -/
def Obligations.CanonicalMemoriesAreEqual : Prop :=
  ∀ m m' : Memory, m.wf = true → m'.wf = true → (∀ a, m.read a = m'.read a) → m = m'

/-! ### Direct-address and immediate instructions -/

/-- R150: LODD loads M[A], read as unsigned, or faults. PC = p + 1 after a faulting data access is the spec's own choice D5 (log 10). RUN
and the fault record after the fault are the spec's own choice D7 (log 2). -/
def Obligations.LoddLoadsAccumulator : Prop :=
  (∀ a, encode (.lodd a) = [0x0001#16, a]) ∧ OperandFetchFaults .lodd ∧ DataAccessFaults .lodd ∧
    WritesAccumulator .lodd fun _ m => (m.toNat : Int)

/-- R151: STOD stores `mask16(AC)` at A (on a negative AC the spec's own choice D13; log 11), changes no flag and no other word; a data
access with A >= 4096 faults and writes nothing, with PC = p + 1 (its D5; log 10). RUN and the fault record after the fault are the spec's
own choice D7 (log 2). -/
def Obligations.StodStoresAccumulator : Prop :=
  (∀ a, encode (.stod a) = [0x0002#16, a]) ∧ OperandFetchFaults .stod ∧ DataAccessFaults .stod ∧
    ∀ (a : Word) (s : State), s.mem.wf = true → a.toNat ≤ 4095 →
      ∃ t, exec (.stod a) s = .next t ∧ t.mem.read a.toNat = BitVec.ofInt 16 s.ac ∧ SameMemoryBut a.toNat s t ∧ t.ac = s.ac ∧
        SameFlags s t ∧ t.pc = s.pc + 1#16 ∧ t.sp = s.sp ∧ SameControl s t ∧ NothingRaised s t ∧
        Mirrors a.toNat (BitVec.ofInt 16 s.ac) s t

/-- R152: the memory word is added as unsigned. PC = p + 1 after a faulting data access is the spec's own choice D5 (log 10). RUN and the
fault record after the fault are the spec's own choice D7 (log 2). -/
def Obligations.AdddAddsMemoryWord : Prop :=
  (∀ a, encode (.addd a) = [0x0003#16, a]) ∧ OperandFetchFaults .addd ∧ DataAccessFaults .addd ∧
    WritesAccumulator .addd fun ac m => ac + (m.toNat : Int)

/-- R153: AC minus the unsigned word. PC = p + 1 after a faulting data access is the spec's own choice D5 (log 10). RUN and the fault record
after the fault are the spec's own choice D7 (log 2). -/
def Obligations.SubdSubtractsMemoryWord : Prop :=
  (∀ a, encode (.subd a) = [0x0004#16, a]) ∧ OperandFetchFaults .subd ∧ DataAccessFaults .subd ∧
    WritesAccumulator .subd fun ac m => ac - (m.toNat : Int)

/-- R154: bitwise OR of AC, in two's complement (on a negative AC the spec's own choice D8; log 11), with the word; no store. PC = p + 1
after a faulting data access is the spec's own choice D5 (log 10). RUN and the fault record after the fault are the spec's own choice D7
(log 2). -/
def Obligations.StodlOrsMemoryWord : Prop :=
  (∀ a, encode (.stodl a) = [0x0006#16, a]) ∧ OperandFetchFaults .stodl ∧ DataAccessFaults .stodl ∧
    WritesAccumulator .stodl fun ac m => Int.lor ac (m.toNat : Int)

/-- R155 (the extension of K is the spec's own choice D1; log 3): under HW16 AC = sext_16(K), under REF_UNBOUNDED AC = K; no data access,
and no fault but the operand fetch's. RUN and the fault record after the fault are the spec's own choice D7 (log 2). -/
def Obligations.LocoLoadsConstant : Prop :=
  (∀ k, encode (.loco k) = [0x0007#16, k]) ∧ OperandFetchFaults .loco ∧
    ∀ (k : Word) (s : State), ∃ t, exec (.loco k) s = .next t ∧
      (s.config.wordMode = .hw16 → t.ac = k.toInt) ∧ (s.config.wordMode = .refUnbounded → t.ac = (k.toNat : Int)) ∧
      FlagsOf t.ac t ∧ t.pc = s.pc + 1#16 ∧ t.sp = s.sp ∧ SameControl s t ∧ NothingRaised s t ∧ SameMemory s t ∧ SameMirror s t

/-! ### Control transfer -/

/-- R170: the jump is taken iff N and Z are both false; else PC moves past the operand. Nothing else changes. RUN and the fault record after
the fault are the spec's own choice D7 (log 2). -/
def Obligations.JposJumpsIfPositive : Prop :=
  (∀ a, encode (.jpos a) = [0x0005#16, a]) ∧ OperandFetchFaults .jpos ∧
    ∀ (a : Word) (s : State), exec (.jpos a) s =
      .next { s with pc := if s.flagN = false ∧ s.flagZ = false then a else s.pc + 1#16 }

/-- R171: PC takes the target, whatever it is. Nothing else changes. RUN and the fault record after the fault are the spec's own choice D7
(log 2). -/
def Obligations.JumpAlwaysJumps : Prop :=
  (∀ a, encode (.jump a) = [0x0008#16, a]) ∧ OperandFetchFaults .jump ∧
    ∀ (a : Word) (s : State), exec (.jump a) s = .next { s with pc := a }

/-- R172: the jump is taken iff Z; else PC moves past the operand. Nothing else changes. RUN and the fault record after the fault are the
spec's own choice D7 (log 2). -/
def Obligations.JzerJumpsIfZero : Prop :=
  (∀ a, encode (.jzer a) = [0x0009#16, a]) ∧ OperandFetchFaults .jzer ∧
    ∀ (a : Word) (s : State), exec (.jzer a) s =
      .next { s with pc := if s.flagZ = true then a else s.pc + 1#16 }

/-- R173: the jump is taken iff N; else PC moves past the operand. Nothing else changes. RUN and the fault record after the fault are the
spec's own choice D7 (log 2). -/
def Obligations.JnegJumpsIfNegative : Prop :=
  (∀ a, encode (.jneg a) = [0x000A#16, a]) ∧ OperandFetchFaults .jneg ∧
    ∀ (a : Word) (s : State), exec (.jneg a) s =
      .next { s with pc := if s.flagN = true then a else s.pc + 1#16 }

/-! ### Stack -/

/-- R180: ADDL adds M[SP], the free slot, with SP unchanged; with SP outside 0..4095 it raises AddressFault(SP) and changes nothing. RUN and
the fault record after the fault are the spec's own choice D7 (log 2). -/
def Obligations.AddlAddsWordAtSp : Prop :=
  encode .addl = [0x000B#16] ∧
    (∀ s : State, 0 ≤ s.sp → s.sp ≤ 4095 →
      ∃ t, exec .addl s = .next t ∧ t.ac = wrap s.config.wordMode (s.ac + ((s.mem.read s.sp.toNat).toNat : Int)) ∧
        FlagsOf t.ac t ∧ t.sp = s.sp ∧ t.pc = s.pc ∧ SameControl s t ∧ NothingRaised s t ∧ SameMemory s t ∧
        Mirrors s.sp.toNat (s.mem.read s.sp.toNat) s t) ∧
    ∀ s : State, s.sp < 0 ∨ 4096 ≤ s.sp → ∃ t, exec .addl s = .next t ∧ FaultsOnly (.addressFault s.sp) s t

/-- R181: SP + 1, wrapped to SP's width, with the flags of the new SP; no bound check and no fault. The width of SP and its wrap under HW16
are the spec's own choices D1 and I17 (log 12). -/
def Obligations.InspIncrementsSp : Prop :=
  encode .insp = [0x000C#16] ∧
    ∀ s : State, ∃ t, exec .insp s = .next t ∧ t.sp = wrap s.config.wordMode (s.sp + 1) ∧ FlagsOf t.sp t ∧ t.ac = s.ac ∧
      t.pc = s.pc ∧ SameControl s t ∧ NothingRaised s t ∧ SameMemory s t ∧ SameMirror s t

/-- R182, R110: with SP in 1..4095 the word is written at SP and SP drops by one; with SP = 0 the same happens and StackOverflow(-1) is
raised; with SP outside 0..4095 AddressFault(SP) is raised and nothing else changes. No flag changes. The pattern of a negative AC is the
spec's own choice D13 (log 11). RUN and the fault record after the fault are the spec's own choice D7 (log 2). -/
def Obligations.PushStoresAndDecrements : Prop :=
  encode .push = [0x000D#16] ∧
    (∀ s : State, s.mem.wf = true → 1 ≤ s.sp → s.sp ≤ 4095 →
      ∃ t, exec .push s = .next t ∧ t.mem.read s.sp.toNat = BitVec.ofInt 16 s.ac ∧ SameMemoryBut s.sp.toNat s t ∧
        t.sp = s.sp - 1 ∧ t.ac = s.ac ∧ SameFlags s t ∧ t.pc = s.pc ∧ SameControl s t ∧ NothingRaised s t ∧
        Mirrors s.sp.toNat (BitVec.ofInt 16 s.ac) s t) ∧
    (∀ s : State, s.mem.wf = true → s.sp = 0 →
      ∃ t, exec .push s = .next t ∧ FaultTaken (.stackOverflow (-1)) s t ∧ t.mem.read 0 = BitVec.ofInt 16 s.ac ∧
        SameMemoryBut 0 s t ∧ t.sp = -1 ∧ t.ac = s.ac ∧ SameFlags s t ∧ t.pc = s.pc ∧ SameControl s t ∧
        Mirrors 0 (BitVec.ofInt 16 s.ac) s t) ∧
    ∀ s : State, s.sp < 0 ∨ 4096 ≤ s.sp → ∃ t, exec .push s = .next t ∧ FaultsOnly (.addressFault s.sp) s t

/-- R183, R111: SP is incremented first, to `n`; with `n` in 0..4095 AC takes M[n] with the flags of AC; with `n >= 4096` StackUnderflow(n)
is raised, and with `n < 0` AddressFault(n), AC, flags and memory unchanged and SP left at `n`. The width of SP and its wrap under HW16 are
the spec's own choices D1 and I17 (log 12). RUN and the fault record after the fault are the spec's own choice D7 (log 2). -/
def Obligations.PopIncrementsAndLoads : Prop :=
  encode .pop = [0x000E#16] ∧
    ∀ (s : State) (n : Int), n = wrap s.config.wordMode (s.sp + 1) →
      (0 ≤ n → n ≤ 4095 →
        ∃ t, exec .pop s = .next t ∧ t.ac = wrap s.config.wordMode ((s.mem.read n.toNat).toNat : Int) ∧ FlagsOf t.ac t ∧
          t.sp = n ∧ t.pc = s.pc ∧ SameControl s t ∧ NothingRaised s t ∧ SameMemory s t ∧
          Mirrors n.toNat (s.mem.read n.toNat) s t) ∧
      (4096 ≤ n →
        ∃ t, exec .pop s = .next t ∧ FaultTaken (.stackUnderflow n) s t ∧ t.sp = n ∧ t.ac = s.ac ∧ SameFlags s t ∧
          t.pc = s.pc ∧ SameControl s t ∧ SameMemory s t ∧ SameMirror s t) ∧
      (n < 0 →
        ∃ t, exec .pop s = .next t ∧ FaultTaken (.addressFault n) s t ∧ t.sp = n ∧ t.ac = s.ac ∧ SameFlags s t ∧
          t.pc = s.pc ∧ SameControl s t ∧ SameMemory s t ∧ SameMirror s t)

/-! ### System -/

/-- R190: HALT clears RUN and does nothing else; the step that executes it leaves PC = p + 1 and IR = 0, returns Stopped, and later steps
change nothing. No other instruction writes RUN. -/
def Obligations.HaltStopsTheEngine : Prop :=
  encode .halt = [0x0000#16] ∧
    (∀ s : State, exec .halt s = .next { s with run := false }) ∧
    (∀ (i : Instr) (s t : State), exec i s = .next t → t.run ≠ s.run → i = .halt) ∧
    ∀ s : State, Fetches .halt s →
      ∃ t, step s = .next t ∧ t.stepResult = .stopped ∧ t.run = false ∧ t.pc.toNat = s.pc.toNat + 1 ∧ t.ir = 0x0000#16 ∧
        step t = .next t

/-- R191, R192: INS and OUT do nothing in the execute phase, so a step that executes one only fetches: IR, PC, MAR and MBR. -/
def Obligations.InsAndOutDoNothing : Prop :=
  encode .ins = [0x000F#16] ∧ encode .out = [0x0010#16] ∧
    (∀ s : State, exec .ins s = .next s ∧ exec .out s = .next s) ∧
    ∀ (s : State) (op : Opcode), op = .ins ∨ op = .out → Fetches op s →
      ∃ t, step s = .next t ∧ t.stepResult = .continued ∧ t.ir = op.word ∧ t.pc.toNat = s.pc.toNat + 1 ∧
        Mirrors s.pc.toNat op.word s t ∧ t.ac = s.ac ∧ t.sp = s.sp ∧ SameFlags s t ∧ SameMemory s t ∧ t.run = s.run ∧
        t.config = s.config ∧ t.faultRecord = s.faultRecord

/-! ### Frames -/

/-- The frame of the instructions that write AC from memory or the operand, LODD ADDD SUBD STODL LOCO ADDL: SP, IR, RUN and the
parameters stay, and every word of memory reads as before. -/
def Obligations.AccumulatorWritersFrame : Prop :=
  ∀ (i : Instr) (s t : State),
    (i.opcode = .lodd ∨ i.opcode = .addd ∨ i.opcode = .subd ∨ i.opcode = .stodl ∨ i.opcode = .loco ∨ i.opcode = .addl) →
    exec i s = .next t → t.sp = s.sp ∧ SameControl s t ∧ SameMemory s t

/-- The frame of the storing instructions: AC, flags, IR, RUN and the parameters stay; STOD keeps SP and every word outside its data
address, PUSH every word outside the slot at SP, and with an address outside 0..4095 every word stays. -/
def Obligations.StoringInstructionsFrame : Prop :=
  (∀ (a : Word) (s t : State), s.mem.wf = true → exec (.stod a) s = .next t →
    t.ac = s.ac ∧ t.sp = s.sp ∧ SameFlags s t ∧ SameControl s t ∧
      ∀ b : Nat, (b : Int) ≠ dataAddress a → t.mem.read b = s.mem.read b) ∧
    ∀ s t : State, s.mem.wf = true → exec .push s = .next t →
      t.ac = s.ac ∧ SameFlags s t ∧ SameControl s t ∧ ∀ b : Nat, (b : Int) ≠ s.sp → t.mem.read b = s.mem.read b

/-- The frame of INSP and POP: IR, RUN, PC and the parameters stay, every word of memory reads as before, and INSP keeps AC. -/
def Obligations.StackPointerMoversFrame : Prop :=
  ∀ (i : Instr) (s t : State), i = .insp ∨ i = .pop → exec i s = .next t →
    t.pc = s.pc ∧ SameControl s t ∧ SameMemory s t ∧ (i = .insp → t.ac = s.ac ∧ SameMirror s t ∧ NothingRaised s t)

/-- The frame of the jumps and of HALT, INS and OUT: a jump changes PC alone (R174), HALT changes RUN alone, INS and OUT change nothing. -/
def Obligations.ControlInstructionsFrame : Prop :=
  ∀ (i : Instr) (s t : State), exec i s = .next t →
    (i.opcode = .jpos ∨ i.opcode = .jump ∨ i.opcode = .jzer ∨ i.opcode = .jneg → t = { s with pc := t.pc }) ∧
    (i.opcode = .halt → t = { s with run := t.run }) ∧ (i.opcode = .ins ∨ i.opcode = .out → t = s)

/-! ### The step -/

/-- R131-R134, R137: when the words at PC decode to `i`, a step is `exec i` of the state the fetch leaves: PC one past the opcode word, IR
the opcode word, MAR and MBR the last word fetched, no fault raised yet, and all else as it was. -/
def Obligations.StepRunsDecodedInstruction : Prop :=
  ∀ (s : State) (i : Instr) (rest : List Word), s.run = true → s.pc.toNat + (encode i).length ≤ 4096 →
    decode [s.mem.read s.pc.toNat, s.mem.read (s.pc.toNat + 1)] = .ok (i, rest) →
    ∃ f, step s = exec i f ∧ f.pc = s.pc + 1#16 ∧ f.ir = s.mem.read s.pc.toNat ∧ f.raised = none ∧
      f.faultRecord = s.faultRecord ∧ f.ac = s.ac ∧ f.sp = s.sp ∧ SameFlags s f ∧ f.run = s.run ∧ f.config = s.config ∧
      f.mem = s.mem ∧
      Mirrors (s.pc.toNat + (encode i).length - 1) (s.mem.read (s.pc.toNat + (encode i).length - 1)) s f

/-- R143 and the model's reading of R205 (log 1): from every state a step answers a next state, and so does the execute phase of every
instruction; neither changes the parameters. -/
def Obligations.EveryStepAnswersNext : Prop :=
  (∀ s : State, ∃ t, step s = .next t ∧ t.config = s.config) ∧
    ∀ (i : Instr) (s : State), ∃ t, exec i s = .next t ∧ t.config = s.config

/-- R130, R218, R230: a step while Halted returns Stopped and changes nothing, that of a just-constructed core among them. The model's own
field `raised` says that this step raised no fault (log 1); in a state of the invariant it is empty already. The construction values of all
but SP, RUN and memory are the spec's own choices D3 and D9 (log 7). -/
def Obligations.HaltedStepDoesNothing : Prop :=
  (∀ s : State, s.run = false →
    ∃ t, step s = .next t ∧ t = { s with raised := none } ∧ t.stepResult = .stopped ∧ (s.Inv → t = s)) ∧
    ∀ c : Config, step (State.constructed c) = .next (State.constructed c) ∧
      (∀ a, (State.constructed c).mem.read a = 0#16) ∧ (State.constructed c).sp = 4095

/-- R131, R142: with PC >= 4096 a running step clears RUN and returns Stopped: no fault, no memory access, IR and PC unchanged. -/
def Obligations.OffEndStopsCleanly : Prop :=
  ∀ s : State, s.run = true → 4096 ≤ s.pc.toNat →
    ∃ t, step s = .next t ∧ t.run = false ∧ t.stepResult = .stopped ∧ t.raised = none ∧ t.faultRecord = s.faultRecord ∧
      t.pc = s.pc ∧ t.ir = s.ir ∧ t.ac = s.ac ∧ t.sp = s.sp ∧ SameFlags s t ∧ SameMirror s t ∧ SameMemory s t ∧
      t.config = s.config

/-- R26 (the whole word, the spec's own choice D2; log 9): IR is the opcode word fetched by the step, an illegal one too, and keeps its
value when the step fetches nothing. -/
def Obligations.IrHoldsFetchedOpcode : Prop :=
  ∀ s t : State, step s = .next t →
    (s.run = true → s.pc.toNat ≤ 4095 → t.ir = s.mem.read s.pc.toNat) ∧
    (s.run = false ∨ 4096 ≤ s.pc.toNat → t.ir = s.ir)

/-- R135: PC after a step that executes an instruction at p: the target of a taken jump; else p + 1 for Format N and p + 2 for Format A; and
p + 1 after any fault (for a data access the spec's own choice D5; log 10). -/
def Obligations.PcAdvancesPastInstruction : Prop :=
  ∀ (s t : State) (op : Opcode), Fetches op s → step s = .next t →
    (t.raised ≠ none → t.pc.toNat = s.pc.toNat + 1) ∧
    (t.raised = none → op.format = .n → t.pc.toNat = s.pc.toNat + 1) ∧
    (t.raised = none → op.format = .a →
      if op = .jump ∨ (op = .jpos ∧ s.flagN = false ∧ s.flagZ = false) ∨ (op = .jzer ∧ s.flagZ = true) ∨
        (op = .jneg ∧ s.flagN = true) then t.pc = s.mem.read (s.pc.toNat + 1) else t.pc.toNat = s.pc.toNat + 2)

/-- R138: Stopped means that the engine was Halted, PC was off the end, or HALT executed; a fault is reported as the fault; else Continue,
with RUN true. That the whole opcode word counts, so that a word with a nonzero upper byte is none of the 17 opcodes, is the spec's own
choice D2 (log 9). -/
def Obligations.StepResultClassifies : Prop :=
  ∀ s t : State, step s = .next t →
    (t.stepResult = .stopped ↔ s.run = false ∨ 4096 ≤ s.pc.toNat ∨ s.mem.read s.pc.toNat = 0x0000#16) ∧
    (∀ f, t.stepResult = .raised f ↔ t.raised = some f) ∧ (t.stepResult = .continued ↔ t.run = true ∧ t.raised = none)

/-- R208 (the spec's own choice D7; log 2): the fault record keeps the first fault raised since the last load or reset; only they clear it. -/
def Obligations.FaultRecordIsSticky : Prop :=
  (∀ s t : State, step s = .next t → t.faultRecord = if s.faultRecord = none then t.raised else s.faultRecord) ∧
    (∀ s : State, (hostReset s).faultRecord = none) ∧
    ∀ (words : List Int) (s t : State), hostLoad words s = .next t → t.faultRecord = none

/-- R207 (the spec's own choice D7; log 2): a fault leaves RUN true; a later step goes on with no memory of the fault: what the record and
the last fault raised are changes nothing else that it does; and reset and load apply as usual. -/
def Obligations.FaultLeavesEngineRunning : Prop :=
  (∀ s t : State, step s = .next t → t.raised ≠ none → s.run = true ∧ t.run = true) ∧
    ∀ (s t : State) (r q : Option Fault), step s = .next t →
      ∃ t', step { s with raised := r, faultRecord := q } = .next t' ∧ t' = { t with faultRecord := t'.faultRecord } ∧
        hostReset { s with raised := r, faultRecord := q } = hostReset s ∧
        ∀ words : List Int, hostLoad words { s with raised := r, faultRecord := q } = hostLoad words s

/-- R28: a step leaves RUN false iff the engine was Halted, PC was off the end or the opcode word was HALT's, and no step sets it; load and
reset set it, and a constructed core is Halted. That the whole opcode word counts, so that a word with a nonzero upper byte is none of the
17 opcodes, is the spec's own choice D2 (log 9). That a fault does not change RUN is its D7 (log 2). -/
def Obligations.RunIsClearedByHaltAndOffEndOnly : Prop :=
  (∀ s t : State, step s = .next t →
    (t.run = false ↔ s.run = false ∨ 4096 ≤ s.pc.toNat ∨ s.mem.read s.pc.toNat = 0x0000#16)) ∧
    (∀ s : State, (hostReset s).run = true) ∧
    (∀ (words : List Int) (s t : State), hostLoad words s = .next t → t.run = true) ∧
    ∀ c : Config, (State.constructed c).run = false

/-- R54: a step changes a word of memory only if it executes STOD or PUSH; construction leaves every word 0 and reset changes none. That the
whole opcode word counts, so that a word with a nonzero upper byte is none of the 17 opcodes, is the spec's own choice D2 (log 9). -/
def Obligations.MemoryIsWrittenByStodAndPushOnly : Prop :=
  (∀ (s t : State) (a : Nat), step s = .next t → t.mem.read a ≠ s.mem.read a → Fetches .stod s ∨ Fetches .push s) ∧
    (∀ (c : Config) (a : Nat), (State.constructed c).mem.read a = 0#16) ∧
    ∀ (s : State) (a : Nat), (hostReset s).mem.read a = s.mem.read a

/-- R27, R31, R107: after a step that raises no fault the flags are those of AC if it executed an instruction that writes AC, those of SP if
it executed INSP, and else what they were; a fault leaves them; AC and SP are written only by the instructions the access table says. -/
def Obligations.FlagsFollowAccessTable : Prop :=
  ∀ (s t : State) (op : Opcode), Fetches op s → step s = .next t →
    let writesAc := op = .lodd ∨ op = .addd ∨ op = .subd ∨ op = .stodl ∨ op = .loco ∨ op = .addl ∨ op = .pop
    (t.raised = none → writesAc → FlagsOf t.ac t) ∧ (t.raised = none → op = .insp → FlagsOf t.sp t) ∧
      (t.raised ≠ none ∨ ¬ (writesAc ∨ op = .insp) → SameFlags s t) ∧ (t.raised ≠ none ∨ ¬ writesAc → t.ac = s.ac) ∧
      (¬ (op = .insp ∨ op = .push ∨ op = .pop) → t.sp = s.sp)

/-! ### Faults -/

/-- R202, and the row of R206: a step that fetches a word above 0x0010 raises IllegalOpcode with it; IR holds it, PC = p + 1, and nothing
else changes but MAR and MBR, which mirror the fetch. No other step raises it. That the whole opcode word counts, so that a word with a
nonzero upper byte is none of the 17 opcodes, is the spec's own choice D2 (log 9). RUN and the fault record after the fault are the spec's
own choice D7 (log 2). -/
def Obligations.IllegalOpcodeFaults : Prop :=
  (∀ s : State, s.run = true → s.pc.toNat ≤ 4095 → 0x0011 ≤ (s.mem.read s.pc.toNat).toNat →
    ∃ t, step s = .next t ∧ FaultTaken (.illegalOpcode (s.mem.read s.pc.toNat)) s t ∧ t.ir = s.mem.read s.pc.toNat ∧
      t.pc.toNat = s.pc.toNat + 1 ∧ t.ac = s.ac ∧ t.sp = s.sp ∧ SameFlags s t ∧ t.run = s.run ∧ t.config = s.config ∧
      SameMemory s t ∧ Mirrors s.pc.toNat (s.mem.read s.pc.toNat) s t) ∧
    ∀ (s t : State) (w : Word), step s = .next t → t.raised = some (.illegalOpcode w) →
      s.run = true ∧ s.pc.toNat ≤ 4095 ∧ w = s.mem.read s.pc.toNat ∧ 0x0011 ≤ w.toNat

/-- R201: AddressFault(a) is raised at exactly the five points the rule lists; the POP case only under HW16, after SP wrapped. That the
whole opcode word counts, so that a word with a nonzero upper byte is none of the 17 opcodes, is the spec's own choice D2 (log 9). The width
of SP and its wrap under HW16 are the spec's own choices D1 and I17 (log 12). -/
def Obligations.AddressFaultExactlyWhere : Prop :=
  ∀ (s t : State) (a : Int), step s = .next t →
    (t.raised = some (.addressFault a) ↔
      (∃ op : Opcode, Fetches op s ∧ op.format = .a ∧ s.pc.toNat = 4095 ∧ a = 4096) ∨
      (∃ op : Opcode, Fetches op s ∧ (op = .lodd ∨ op = .stod ∨ op = .addd ∨ op = .subd ∨ op = .stodl) ∧
        s.pc.toNat ≤ 4094 ∧ 4096 ≤ (s.mem.read (s.pc.toNat + 1)).toNat ∧ a = (s.mem.read (s.pc.toNat + 1)).toNat) ∨
      (Fetches .addl s ∧ (s.sp < 0 ∨ 4096 ≤ s.sp) ∧ a = s.sp) ∨
      (Fetches .push s ∧ (s.sp < 0 ∨ 4096 ≤ s.sp) ∧ a = s.sp) ∨
      (Fetches .pop s ∧ wrap s.config.wordMode (s.sp + 1) < 0 ∧ a = wrap s.config.wordMode (s.sp + 1))) ∧
    (s.Inv → Fetches .pop s → wrap s.config.wordMode (s.sp + 1) < 0 →
      s.config.wordMode = .hw16 ∧ (s.sp = 32767 ∨ s.sp < -1))

/-- R203, R204: StackOverflow is raised exactly by a PUSH at SP = 0, with the write done and SP = -1; StackUnderflow exactly by a POP whose
incremented SP is 4096 or more, with no memory read, AC unchanged and SP left incremented. The pattern of a negative AC is the spec's own
choice D13 (log 11). The width of SP and its wrap under HW16 are the spec's own choices D1 and I17 (log 12). That the whole opcode word
counts, so that a word with a nonzero upper byte is none of the 17 opcodes, is the spec's own choice D2 (log 9). -/
def Obligations.StackFaultsExactlyWhere : Prop :=
  ∀ (s t : State) (v : Int), s.mem.wf = true → step s = .next t →
    (t.raised = some (.stackOverflow v) ↔ Fetches .push s ∧ s.sp = 0 ∧ v = -1) ∧
    (t.raised = some (.stackOverflow v) → t.mem.read 0 = BitVec.ofInt 16 s.ac ∧ t.sp = -1) ∧
    (t.raised = some (.stackUnderflow v) ↔ Fetches .pop s ∧ v = wrap s.config.wordMode (s.sp + 1) ∧ 4096 ≤ v) ∧
    (t.raised = some (.stackUnderflow v) →
      t.sp = v ∧ t.ac = s.ac ∧ SameMemory s t ∧ Mirrors s.pc.toNat (s.mem.read s.pc.toNat) s t)

/-- R206 (PC after a faulting data access is the spec's own choice D5; log 10): the state after a faulting step, row by row: PC = p + 1, IR
the opcode word, AC, flags and RUN unchanged in every row; SP and memory by the row; MAR and MBR the last access that succeeded. The word a
PUSH of a negative AC leaves in M[0] is the spec's own choice D13 (log 11), that RUN stays true its D7 (log 2), and SP after a POP that
wrapped its D1 and I17 (log 12). -/
def Obligations.FaultingStepLeavesTableState : Prop :=
  ∀ (s t : State) (f : Fault), s.Inv → step s = .next t → t.raised = some f →
    t.pc.toNat = s.pc.toNat + 1 ∧ t.ir = s.mem.read s.pc.toNat ∧ t.ac = s.ac ∧ SameFlags s t ∧ t.run = true ∧
    (match f with
      | .illegalOpcode w => w = t.ir ∧ t.sp = s.sp ∧ SameMemory s t
      | .addressFault a => SameMemory s t ∧ (t.ir ≠ 0x000E#16 → t.sp = s.sp) ∧ (t.ir = 0x000E#16 → t.sp = a ∧ t.sp < 0)
      | .stackOverflow v => t.ir = 0x000D#16 ∧ v = -1 ∧ t.sp = -1 ∧ t.mem.read 0 = BitVec.ofInt 16 s.ac ∧ SameMemoryBut 0 s t
      | .stackUnderflow v => t.ir = 0x000E#16 ∧ v = s.sp + 1 ∧ t.sp = s.sp + 1 ∧ 4096 ≤ t.sp ∧ SameMemory s t) ∧
    (t.ir = 0x000D#16 ∧ s.sp = 0 → Mirrors 0 (BitVec.ofInt 16 s.ac) s t) ∧
    (0x0001 ≤ t.ir.toNat ∧ t.ir.toNat ≤ 0x000A ∧ s.pc.toNat ≤ 4094 →
      Mirrors (s.pc.toNat + 1) (s.mem.read (s.pc.toNat + 1)) s t) ∧
    (¬ (t.ir = 0x000D#16 ∧ s.sp = 0) → ¬ (0x0001 ≤ t.ir.toNat ∧ t.ir.toNat ≤ 0x000A ∧ s.pc.toNat ≤ 4094) →
      Mirrors s.pc.toNat (s.mem.read s.pc.toNat) s t)

/-- R209: of several conditions the step's order of checks decides: off end, then IllegalOpcode, then the operand fetch, then the execute
phase in its own order, a PUSH's write before its bound check and a POP's bound check before its read. That the whole opcode word counts, so
that a word with a nonzero upper byte is none of the 17 opcodes, is the spec's own choice D2 (log 9). The width of SP and its wrap under
HW16 are the spec's own choices D1 and I17 (log 12). -/
def Obligations.FirstFaultInOrderIsRaised : Prop :=
  ∀ s t : State, s.run = true → step s = .next t →
    let w := s.mem.read s.pc.toNat
    (4096 ≤ s.pc.toNat → t.raised = none) ∧
    (s.pc.toNat ≤ 4095 → 0x0011 ≤ w.toNat → t.raised = some (.illegalOpcode w)) ∧
    (s.pc.toNat = 4095 → 0x0001 ≤ w.toNat → w.toNat ≤ 0x000A → t.raised = some (.addressFault 4096)) ∧
    (Fetches .push s → s.sp < 0 ∨ 4096 ≤ s.sp → t.raised = some (.addressFault s.sp)) ∧
    (Fetches .push s → s.sp = 0 → t.raised = some (.stackOverflow (-1))) ∧
    (Fetches .pop s → 4096 ≤ wrap s.config.wordMode (s.sp + 1) →
      t.raised = some (.stackUnderflow (wrap s.config.wordMode (s.sp + 1))))

/-! ### Invariants -/

/-- The invariant is kept by every step, from every state that meets it. RUN after a fault and the recorded values are the spec's own
choices D7 and D6 (log 2), the widths its D1 (log 3, log 12), and which words are illegal its D2 (log 9). -/
def Obligations.StepKeepsInvariant : Prop :=
  ∀ s t : State, s.Inv → step s = .next t → t.Inv

/-- The invariant holds at reset, and of a constructed core of any parameters. The reset values of all but SP and RUN are the spec's own
choices D3 and D9 (log 7). -/
def Obligations.ResetMeetsInvariant : Prop :=
  State.reset.Inv ∧ ∀ c : Config, (State.constructed c).Inv

/-- Every state that the host can bring the core to, by any sequence of load, reset and step from construction on, meets the invariant. The
choices named at StepKeepsInvariant (log 1, log 2, log 3, log 9, log 12) and the reset values D3 and D9 (log 7) are in it. -/
def Obligations.ReachableStatesMeetInvariant : Prop :=
  ∀ s : State, Reachable s → s.Inv

/-- R23 (the wrap of SP is the spec's own choice D1; log 12): SP is never below -1 unless an increment wraps it from 32767, which HW16 alone
does. -/
def Obligations.SpStaysAboveFloor : Prop :=
  ∀ s t : State, s.Inv → step s = .next t → -1 ≤ s.sp → s.config.wordMode = .refUnbounded ∨ s.sp ≠ 32767 → -1 ≤ t.sp

/-! ### Whole-machine rules -/

/-- R33, R115: MAR, MBR and the policy that sets them affect nothing else: two states that agree in everything but them take steps to states
that agree in everything but them. Which accesses set MAR and MBR is open in the source (D4; log 4). -/
def Obligations.MarMbrDoNotAffectSteps : Prop :=
  ∀ s u s' : State, AgreeButMirror s u → step s = .next s' → ∃ u', step u = .next u' ∧ AgreeButMirror s' u'

/-- R109, one step: a HW16 core and a REF_UNBOUNDED core that agree, flags included, and whose SP does not wrap, step to states that agree
in memory, mask16(AC), SP, PC, IR, RUN, MAR, MBR and faults; the flags agree too if AC of the unbounded core is in -32768..32767. WORD_MODE
is a parameter of the spec (D1; log 3); the low 16 bits of a negative number and OR on it are its choices D13 and D8 (log 11). -/
def Obligations.WordModesAgreeForOneStep : Prop :=
  ∀ s u : State, ModesAgree s u → s.Inv → s.sp ≠ 32767 →
    ∃ s' u', step s = .next s' ∧ step u = .next u' ∧ AgreeButFlags s' u' ∧
      (-32768 ≤ u'.ac ∧ u'.ac ≤ 32767 → ModesAgree s' u')

/-- R109, its last sentence, over a run: if AC of the unbounded core stays in -32768..32767 and its SP below 32767 in every state of `n`
steps, the two cores agree, flags included, in the state after them. WORD_MODE is a parameter of the spec (D1; log 3); the low 16 bits of a
negative number and OR on it are its choices D13 and D8 (log 11). -/
def Obligations.WordModesAgreeAlongRun : Prop :=
  ∀ (n : Nat) (s u : State), ModesAgree s u → s.Inv →
    (∀ k, k ≤ n → ∃ uk, runSteps k u = .next uk ∧ -32768 ≤ uk.ac ∧ uk.ac ≤ 32767 ∧ uk.sp < 32767) →
    ∃ s' u', runSteps n s = .next s' ∧ runSteps n u = .next u' ∧ ModesAgree s' u'

/-- R63, R238: a STOD over the word that the next step fetches takes effect at that fetch. The pattern of a negative AC is the spec's own
choice D13 (log 11). -/
def Obligations.StoreIsSeenByNextFetch : Prop :=
  ∀ (s t u : State), s.mem.wf = true → Fetches .stod s → s.pc.toNat ≤ 4093 →
    (s.mem.read (s.pc.toNat + 1)).toNat = s.pc.toNat + 2 → step s = .next t → step t = .next u →
    t.raised = none ∧ u.ir = BitVec.ofInt 16 s.ac

/-- R112: a PUSH at SP = s leaves the pushed word at M[SP + 1], and a POP after it restores SP and gives AC back, as the 16-bit word that
was stored reads in AC's width. The pattern of a negative AC is the spec's own choice D13 (log 11). -/
def Obligations.PopUndoesPush : Prop :=
  ∀ s t : State, s.mem.wf = true → 1 ≤ s.sp → s.sp ≤ 4095 → exec .push s = .next t →
    t.mem.read (t.sp + 1).toNat = BitVec.ofInt 16 s.ac ∧
      ∃ u, exec .pop t = .next u ∧ u.sp = s.sp ∧ u.ac = wrap s.config.wordMode (s.ac % 65536) ∧
        (s.config.wordMode = .hw16 → s.Inv → u.ac = s.ac)

/-- R113: from SP = 4095, pushes 1 to 4095 raise nothing, push k writing M[4096 - k]; push 4096 writes M[0], leaves SP = -1 and raises
StackOverflow(-1); and a POP at SP = 4095 raises StackUnderflow(4096). The pattern of a negative value is the spec's own choice D13 (log
11). -/
def Obligations.StackOverflowsOnPush4096 : Prop :=
  (∀ (vs : List Int) (s : State), s.mem.wf = true → s.sp = 4095 → vs ≠ [] → vs.length ≤ 4096 →
    ∃ t, (vs.length ≤ 4095 → ∃ w, pushAll vs s = .done w t) ∧
      (vs.length = 4096 → pushAll vs s = .raised (.stackOverflow (-1)) t) ∧ t.sp = 4095 - vs.length ∧
      ∀ k, 1 ≤ k → k ≤ vs.length → t.mem.read (4096 - k) = BitVec.ofInt 16 (vs.getD (k - 1) 0)) ∧
    ∀ s : State, s.sp = 4095 → ∃ t, exec .pop s = .next t ∧ t.raised = some (.stackUnderflow 4096) ∧ t.ac = s.ac

/-! ### Data path -/

/-- R103, R11: under HW16 `wrap(v)` is the value in -32768..32767 whose low 16 bits are those of `v`, the only such value; under
REF_UNBOUNDED it is `v`. The widths are the spec's own choice D1 (log 3), the low 16 bits of a negative number its D13 (log 11). -/
def Obligations.WrapIsRegisterWidth : Prop :=
  ∀ v : Int, wrap .refUnbounded v = v ∧ -32768 ≤ wrap .hw16 v ∧ wrap .hw16 v ≤ 32767 ∧
    ∀ x : Int, -32768 ≤ x → x ≤ 32767 → (x % 65536 = v % 65536 ↔ x = wrap .hw16 v)

/-- R104 (on a negative number the spec's own choice D8; log 11): OR is bitwise on the infinite two's-complement representation; under HW16
the value written is the 16-bit OR; under REF_UNBOUNDED it is the OR of two non-negative numbers, or negative if AC is. The low 16 bits of a
negative number are its D13 (log 11). -/
def Obligations.OrIsBitwise : Prop :=
  ∀ (a : Int) (m : Word),
    (∀ i : Nat, (aluOr a m).testBit i = (a.testBit i || m.toNat.testBit i)) ∧
      wrap .hw16 (aluOr a m) = sext16 (BitVec.ofInt 16 a ||| m) ∧
      (0 ≤ a → aluOr a m = ((a.toNat ||| m.toNat : Nat) : Int)) ∧ (a < 0 → aluOr a m < 0) ∧
      aluOr (-3) 2#16 = -1 ∧ aluOr (-3) 1#16 = -3

/-! ### Host operations -/

/-- R231, R232: a load of at most 4096 words puts them from address 0, masked to 16 bits, with 0 in every other word, sets every register,
flag and the fault record to its reset value (those of Z and N are the spec's own choice D3, those of PC, AC, MAR, MBR and IR its D9; log 7)
and RUN to true; a longer image is refused (its D12; log 15). The mask of a negative integer is its D13 (log 11). -/
def Obligations.LoadPlacesImageAndResets : Prop :=
  ∀ (words : List Int) (s : State),
    (words.length ≤ 4096 →
      ∃ t, hostLoad words s = .next t ∧ (∀ a, t.mem.read a = BitVec.ofInt 16 (words.getD a 0)) ∧ t.pc = 0#16 ∧ t.ac = 0 ∧
        t.sp = 4095 ∧ t.mar = 0#16 ∧ t.mbr = 0#16 ∧ t.ir = 0#16 ∧ t.flagZ = false ∧ t.flagN = false ∧ t.run = true ∧
        t.faultRecord = none ∧ t.raised = none ∧ t.config = s.config) ∧
    (4096 < words.length → hostLoad words s = .refused (.imageTooLong words.length))

/-- R231, R233: reset sets every register, flag and the fault record to its reset value (the spec's own choices D3 and D9; log 7) and RUN to
true, and leaves memory as it was; applied to a constructed core it gives the model's reset state. -/
def Obligations.ResetKeepsMemory : Prop :=
  (∀ s : State, (hostReset s).mem = s.mem ∧ (hostReset s).pc = 0#16 ∧ (hostReset s).ac = 0 ∧ (hostReset s).sp = 4095 ∧
    (hostReset s).mar = 0#16 ∧ (hostReset s).mbr = 0#16 ∧ (hostReset s).ir = 0#16 ∧ (hostReset s).flagZ = false ∧
    (hostReset s).flagN = false ∧ (hostReset s).run = true ∧ (hostReset s).faultRecord = none) ∧
    hostReset (State.constructed Config.default) = State.reset

/-- R140: the advisory name is the mnemonic of the word at PC, "none" if PC is out of range or the word is illegal, and whatever RUN is (the
spec's own choice D15; log 16). That the whole opcode word counts, so that a word with a nonzero upper byte is none of the 17 opcodes, is
the spec's own choice D2 (log 9). -/
def Obligations.PeekNamesNextInstruction : Prop :=
  (∀ (s : State) (op : Opcode), s.pc.toNat ≤ 4095 → s.mem.read s.pc.toNat = op.word →
    peekNextInstructionName s = op.mnemonic) ∧
    (∀ s : State, s.pc.toNat ≤ 4095 → 0x0011 ≤ (s.mem.read s.pc.toNat).toNat → peekNextInstructionName s = "none") ∧
    (∀ s : State, 4096 ≤ s.pc.toNat → peekNextInstructionName s = "none") ∧
    ∀ (s : State) (b : Bool), peekNextInstructionName { s with run := b } = peekNextInstructionName s

/-- The model's placing of an instruction (log 8): when the decoder reads `i` from the table word, a step of the state with that word placed
is `exec i` of a state with the registers of `s`. -/
def Obligations.PlacedInstructionIsStepped : Prop :=
  ∀ (s : State) (nbits w : Nat) (i : Instr), s.mem.wf = true → decodeTableWord nbits w = some i →
    ∃ f, step (s.withFetchWord nbits w) = exec i f ∧ f.ac = s.ac ∧ f.sp = s.sp ∧ SameFlags s f ∧ f.run = true ∧
      f.raised = none ∧ f.faultRecord = s.faultRecord ∧ f.config = s.config
end

