-- ==== Sys2Proof/Laws/Memory.lean ====
section
/-! SUPPORT. The laws of the memory array: what a read gives after a write, and that every operation keeps the canonical form. -/

namespace Sys2Proof.Machine

@[simp] theorem Memory.read_nil (a : Nat) : Memory.read [] a = 0#16 := rfl

@[simp] theorem Memory.wf_nil : Memory.wf [] = true := rfl

/-- The canonical form, taken apart at its first entry. -/
theorem Memory.wfFrom_cons {lo b : Nat} {w : Word} {m : Memory} :
    Memory.wfFrom lo ((b, w) :: m) = true ↔ lo ≤ b ∧ b < 4096 ∧ w ≠ 0#16 ∧ Memory.wfFrom (b + 1) m = true := by
  rw [Memory.wfFrom]
  simp only [Bool.and_eq_true, decide_eq_true_eq, and_assoc]
  rfl

theorem Memory.wfFrom_mono {lo lo' : Nat} {m : Memory} (h : lo ≤ lo') (hm : Memory.wfFrom lo' m = true) :
    Memory.wfFrom lo m = true := by
  cases m with
  | nil => rfl
  | cons e m =>
    obtain ⟨h1, h2, h3, h4⟩ := Memory.wfFrom_cons.mp hm
    exact Memory.wfFrom_cons.mpr ⟨h.trans h1, h2, h3, h4⟩

/-- Below its first possible address a canonical memory holds 0. -/
theorem Memory.read_below {lo a : Nat} {m : Memory} (hm : Memory.wfFrom lo m = true) (ha : a < lo) :
    m.read a = 0#16 := by
  induction m generalizing lo with
  | nil => rfl
  | cons e m ih =>
    obtain ⟨b, w⟩ := e
    obtain ⟨h1, h2, h3, h4⟩ := Memory.wfFrom_cons.mp hm
    have hne : a ≠ b := by omega
    rw [Memory.read, if_neg hne]
    exact ih h4 (by omega)

/-- What a read gives after a write, in a canonical memory. -/
theorem Memory.read_write_from {lo : Nat} {m : Memory} (a : Nat) (w : Word) (b : Nat)
    (hm : Memory.wfFrom lo m = true) : (m.write a w).read b = if b = a then w else m.read b := by
  induction m generalizing lo with
  | nil =>
    by_cases hw : w = 0#16 <;> by_cases hb : b = a <;> simp [Memory.write, Memory.unlisted, Memory.read, hw, hb]
  | cons e m ih =>
    obtain ⟨c, v⟩ := e
    obtain ⟨h1, h2, h3, h4⟩ := Memory.wfFrom_cons.mp hm
    have hlow : ∀ x, x ≤ c → Memory.read m x = 0#16 := fun x hx => Memory.read_below h4 (by omega)
    rw [Memory.write]
    split
    · rename_i hac
      split
      · rename_i hw
        simp only [Memory.unlisted] at hw
        by_cases hb : b = a
        · have hbc : b ≠ c := by omega
          rw [if_pos hb, Memory.read, if_neg hbc, hlow b (by omega), hw]
        · rw [if_neg hb]
      · rw [Memory.read]
    · split
      · rename_i hac
        subst hac
        split
        · rename_i hw
          simp only [Memory.unlisted] at hw
          by_cases hb : b = a
          · rw [if_pos hb, hb, hlow a (by omega), hw]
          · rw [if_neg hb, Memory.read, if_neg hb]
        · by_cases hb : b = a
          · rw [if_pos hb, Memory.read, if_pos hb]
          · rw [if_neg hb, Memory.read, if_neg hb, Memory.read, if_neg hb]
      · rename_i h5 h6
        rw [Memory.read, ih h4, Memory.read]
        by_cases hbc : b = c
        · have hba : b ≠ a := by omega
          simp only [if_pos hbc, if_neg hba]
        · simp only [if_neg hbc]

/-- The read law at the whole memory: the word written, and every other word as before. -/
theorem Memory.read_write {m : Memory} (hm : m.wf = true) (a : Nat) (w : Word) (b : Nat) :
    (m.write a w).read b = if b = a then w else m.read b :=
  Memory.read_write_from a w b hm

theorem Memory.write_wfFrom {lo : Nat} {m : Memory} {a : Nat} (w : Word) (hlo : lo ≤ a) (ha : a < 4096)
    (hm : Memory.wfFrom lo m = true) : Memory.wfFrom lo (m.write a w) = true := by
  induction m generalizing lo with
  | nil =>
    by_cases hw : w = 0#16
    · simp [Memory.write, Memory.unlisted, hw, Memory.wfFrom]
    · simp [Memory.write, Memory.unlisted, hw, Memory.wfFrom, memWords, hlo, ha]
  | cons e m ih =>
    obtain ⟨c, v⟩ := e
    obtain ⟨h1, h2, h3, h4⟩ := Memory.wfFrom_cons.mp hm
    rw [Memory.write]
    split
    · split
      · exact hm
      · rename_i hac hw
        exact Memory.wfFrom_cons.mpr ⟨hlo, ha, hw, Memory.wfFrom_cons.mpr ⟨by omega, h2, h3, h4⟩⟩
    · split
      · rename_i hac
        subst hac
        split
        · exact Memory.wfFrom_mono (by omega) h4
        · rename_i hw
          exact Memory.wfFrom_cons.mpr ⟨hlo, ha, hw, h4⟩
      · exact Memory.wfFrom_cons.mpr ⟨h1, h2, h3, ih (by omega) h4⟩

/-- A write of a valid address keeps the canonical form. -/
theorem Memory.write_wf {m : Memory} {a : Nat} (w : Word) (ha : a < 4096) (hm : m.wf = true) :
    (m.write a w).wf = true :=
  Memory.write_wfFrom w (Nat.zero_le a) ha hm

/-- Writing an image that fits keeps the canonical form. -/
theorem Memory.writeImage_wf {m : Memory} {a : Nat} {words : List Word} (hm : m.wf = true)
    (h : a + words.length ≤ 4096) : (m.writeImage a words).wf = true := by
  induction words generalizing m a with
  | nil => exact hm
  | cons w rest ih =>
    simp only [List.length_cons] at h
    exact ih (Memory.write_wf w (by omega) hm) (by omega)

/-- What a read gives after an image was written. -/
theorem Memory.read_writeImage {m : Memory} {a : Nat} {words : List Word} (hm : m.wf = true)
    (h : a + words.length ≤ 4096) (b : Nat) :
    (m.writeImage a words).read b =
      if a ≤ b then (words[b - a]?).getD (m.read b) else m.read b := by
  induction words generalizing m a with
  | nil => simp [Memory.writeImage]
  | cons w rest ih =>
    simp only [List.length_cons] at h
    rw [Memory.writeImage, ih (Memory.write_wf w (by omega) hm) (by omega), Memory.read_write hm]
    rcases Nat.lt_trichotomy b a with hb | hb | hb
    · have h1 : ¬ a + 1 ≤ b := by omega
      have h2 : ¬ a ≤ b := by omega
      have h3 : b ≠ a := by omega
      simp only [if_neg h1, if_neg h2, if_neg h3]
    · subst hb
      have h1 : ¬ b + 1 ≤ b := by omega
      simp [h1]
    · have h1 : a + 1 ≤ b := by omega
      have h2 : a ≤ b := by omega
      have h3 : b ≠ a := by omega
      have h4 : b - a = (b - (a + 1)) + 1 := by omega
      simp only [if_pos h1, if_pos h2, if_neg h3, h4, List.getElem?_cons_succ]

/-- The memory at reset is canonical. -/
theorem State.reset_mem_wf : State.reset.mem.wf = true := rfl

end Sys2Proof.Machine
end

