-- ==== Sys2Proof/Laws/State.lean ====
section
/-! SUPPORT. What each update of the state does to each field, so that no later proof unfolds a record update. -/

namespace Sys2Proof.Machine

@[simp] theorem State.mirror_mem (a : Nat) (w : Word) (s : State) : (s.mirror a w).mem = s.mem := rfl
@[simp] theorem State.mirror_pc (a : Nat) (w : Word) (s : State) : (s.mirror a w).pc = s.pc := rfl
@[simp] theorem State.mirror_ac (a : Nat) (w : Word) (s : State) : (s.mirror a w).ac = s.ac := rfl
@[simp] theorem State.mirror_sp (a : Nat) (w : Word) (s : State) : (s.mirror a w).sp = s.sp := rfl
@[simp] theorem State.mirror_mar (a : Nat) (w : Word) (s : State) : (s.mirror a w).mar = mirroredAddress a s := rfl
@[simp] theorem State.mirror_mbr (a : Nat) (w : Word) (s : State) : (s.mirror a w).mbr = mirroredWord w s := rfl
@[simp] theorem State.mirror_ir (a : Nat) (w : Word) (s : State) : (s.mirror a w).ir = s.ir := rfl
@[simp] theorem State.mirror_flagZ (a : Nat) (w : Word) (s : State) : (s.mirror a w).flagZ = s.flagZ := rfl
@[simp] theorem State.mirror_flagN (a : Nat) (w : Word) (s : State) : (s.mirror a w).flagN = s.flagN := rfl
@[simp] theorem State.mirror_run (a : Nat) (w : Word) (s : State) : (s.mirror a w).run = s.run := rfl
@[simp] theorem State.mirror_faultRecord (a : Nat) (w : Word) (s : State) : (s.mirror a w).faultRecord = s.faultRecord := rfl
@[simp] theorem State.mirror_raised (a : Nat) (w : Word) (s : State) : (s.mirror a w).raised = s.raised := rfl
@[simp] theorem State.mirror_config (a : Nat) (w : Word) (s : State) : (s.mirror a w).config = s.config := rfl
@[simp] theorem State.mirror_draws (a : Nat) (w : Word) (s : State) : (s.mirror a w).draws = drawsAfterAccess s := rfl

@[simp] theorem State.setWord_mem (a : Nat) (w : Word) (s : State) : (s.setWord a w).mem = s.mem.write a w := rfl
@[simp] theorem State.setWord_pc (a : Nat) (w : Word) (s : State) : (s.setWord a w).pc = s.pc := rfl
@[simp] theorem State.setWord_ac (a : Nat) (w : Word) (s : State) : (s.setWord a w).ac = s.ac := rfl
@[simp] theorem State.setWord_sp (a : Nat) (w : Word) (s : State) : (s.setWord a w).sp = s.sp := rfl
@[simp] theorem State.setWord_mar (a : Nat) (w : Word) (s : State) : (s.setWord a w).mar = s.mar := rfl
@[simp] theorem State.setWord_mbr (a : Nat) (w : Word) (s : State) : (s.setWord a w).mbr = s.mbr := rfl
@[simp] theorem State.setWord_ir (a : Nat) (w : Word) (s : State) : (s.setWord a w).ir = s.ir := rfl
@[simp] theorem State.setWord_flagZ (a : Nat) (w : Word) (s : State) : (s.setWord a w).flagZ = s.flagZ := rfl
@[simp] theorem State.setWord_flagN (a : Nat) (w : Word) (s : State) : (s.setWord a w).flagN = s.flagN := rfl
@[simp] theorem State.setWord_run (a : Nat) (w : Word) (s : State) : (s.setWord a w).run = s.run := rfl
@[simp] theorem State.setWord_faultRecord (a : Nat) (w : Word) (s : State) : (s.setWord a w).faultRecord = s.faultRecord := rfl
@[simp] theorem State.setWord_raised (a : Nat) (w : Word) (s : State) : (s.setWord a w).raised = s.raised := rfl
@[simp] theorem State.setWord_config (a : Nat) (w : Word) (s : State) : (s.setWord a w).config = s.config := rfl
@[simp] theorem State.setWord_draws (a : Nat) (w : Word) (s : State) : (s.setWord a w).draws = s.draws := rfl

@[simp] theorem State.setAC_mem (v : Int) (s : State) : (s.setAC v).mem = s.mem := rfl
@[simp] theorem State.setAC_pc (v : Int) (s : State) : (s.setAC v).pc = s.pc := rfl
@[simp] theorem State.setAC_ac (v : Int) (s : State) : (s.setAC v).ac = wrap s.config.wordMode v := rfl
@[simp] theorem State.setAC_sp (v : Int) (s : State) : (s.setAC v).sp = s.sp := rfl
@[simp] theorem State.setAC_mar (v : Int) (s : State) : (s.setAC v).mar = s.mar := rfl
@[simp] theorem State.setAC_mbr (v : Int) (s : State) : (s.setAC v).mbr = s.mbr := rfl
@[simp] theorem State.setAC_ir (v : Int) (s : State) : (s.setAC v).ir = s.ir := rfl
@[simp] theorem State.setAC_flagZ (v : Int) (s : State) : (s.setAC v).flagZ = zeroFlag (wrap s.config.wordMode v) := rfl
@[simp] theorem State.setAC_flagN (v : Int) (s : State) : (s.setAC v).flagN = negativeFlag (wrap s.config.wordMode v) := rfl
@[simp] theorem State.setAC_run (v : Int) (s : State) : (s.setAC v).run = s.run := rfl
@[simp] theorem State.setAC_faultRecord (v : Int) (s : State) : (s.setAC v).faultRecord = s.faultRecord := rfl
@[simp] theorem State.setAC_raised (v : Int) (s : State) : (s.setAC v).raised = s.raised := rfl
@[simp] theorem State.setAC_config (v : Int) (s : State) : (s.setAC v).config = s.config := rfl
@[simp] theorem State.setAC_draws (v : Int) (s : State) : (s.setAC v).draws = s.draws := rfl

@[simp] theorem State.setSP_mem (v : Int) (s : State) : (s.setSP v).mem = s.mem := rfl
@[simp] theorem State.setSP_pc (v : Int) (s : State) : (s.setSP v).pc = s.pc := rfl
@[simp] theorem State.setSP_ac (v : Int) (s : State) : (s.setSP v).ac = s.ac := rfl
@[simp] theorem State.setSP_sp (v : Int) (s : State) : (s.setSP v).sp = wrap s.config.wordMode v := rfl
@[simp] theorem State.setSP_mar (v : Int) (s : State) : (s.setSP v).mar = s.mar := rfl
@[simp] theorem State.setSP_mbr (v : Int) (s : State) : (s.setSP v).mbr = s.mbr := rfl
@[simp] theorem State.setSP_ir (v : Int) (s : State) : (s.setSP v).ir = s.ir := rfl
@[simp] theorem State.setSP_flagZ (v : Int) (s : State) : (s.setSP v).flagZ = s.flagZ := rfl
@[simp] theorem State.setSP_flagN (v : Int) (s : State) : (s.setSP v).flagN = s.flagN := rfl
@[simp] theorem State.setSP_run (v : Int) (s : State) : (s.setSP v).run = s.run := rfl
@[simp] theorem State.setSP_faultRecord (v : Int) (s : State) : (s.setSP v).faultRecord = s.faultRecord := rfl
@[simp] theorem State.setSP_raised (v : Int) (s : State) : (s.setSP v).raised = s.raised := rfl
@[simp] theorem State.setSP_config (v : Int) (s : State) : (s.setSP v).config = s.config := rfl
@[simp] theorem State.setSP_draws (v : Int) (s : State) : (s.setSP v).draws = s.draws := rfl

@[simp] theorem State.setSPFlags_mem (v : Int) (s : State) : (s.setSPFlags v).mem = s.mem := rfl
@[simp] theorem State.setSPFlags_pc (v : Int) (s : State) : (s.setSPFlags v).pc = s.pc := rfl
@[simp] theorem State.setSPFlags_ac (v : Int) (s : State) : (s.setSPFlags v).ac = s.ac := rfl
@[simp] theorem State.setSPFlags_sp (v : Int) (s : State) : (s.setSPFlags v).sp = wrap s.config.wordMode v := rfl
@[simp] theorem State.setSPFlags_mar (v : Int) (s : State) : (s.setSPFlags v).mar = s.mar := rfl
@[simp] theorem State.setSPFlags_mbr (v : Int) (s : State) : (s.setSPFlags v).mbr = s.mbr := rfl
@[simp] theorem State.setSPFlags_ir (v : Int) (s : State) : (s.setSPFlags v).ir = s.ir := rfl
@[simp] theorem State.setSPFlags_flagZ (v : Int) (s : State) : (s.setSPFlags v).flagZ = zeroFlag (wrap s.config.wordMode v) := rfl
@[simp] theorem State.setSPFlags_flagN (v : Int) (s : State) : (s.setSPFlags v).flagN = negativeFlag (wrap s.config.wordMode v) := rfl
@[simp] theorem State.setSPFlags_run (v : Int) (s : State) : (s.setSPFlags v).run = s.run := rfl
@[simp] theorem State.setSPFlags_faultRecord (v : Int) (s : State) : (s.setSPFlags v).faultRecord = s.faultRecord := rfl
@[simp] theorem State.setSPFlags_raised (v : Int) (s : State) : (s.setSPFlags v).raised = s.raised := rfl
@[simp] theorem State.setSPFlags_config (v : Int) (s : State) : (s.setSPFlags v).config = s.config := rfl
@[simp] theorem State.setSPFlags_draws (v : Int) (s : State) : (s.setSPFlags v).draws = s.draws := rfl

@[simp] theorem State.setPC_mem (w : Word) (s : State) : (s.setPC w).mem = s.mem := rfl
@[simp] theorem State.setPC_pc (w : Word) (s : State) : (s.setPC w).pc = w := rfl
@[simp] theorem State.setPC_ac (w : Word) (s : State) : (s.setPC w).ac = s.ac := rfl
@[simp] theorem State.setPC_sp (w : Word) (s : State) : (s.setPC w).sp = s.sp := rfl
@[simp] theorem State.setPC_mar (w : Word) (s : State) : (s.setPC w).mar = s.mar := rfl
@[simp] theorem State.setPC_mbr (w : Word) (s : State) : (s.setPC w).mbr = s.mbr := rfl
@[simp] theorem State.setPC_ir (w : Word) (s : State) : (s.setPC w).ir = s.ir := rfl
@[simp] theorem State.setPC_flagZ (w : Word) (s : State) : (s.setPC w).flagZ = s.flagZ := rfl
@[simp] theorem State.setPC_flagN (w : Word) (s : State) : (s.setPC w).flagN = s.flagN := rfl
@[simp] theorem State.setPC_run (w : Word) (s : State) : (s.setPC w).run = s.run := rfl
@[simp] theorem State.setPC_faultRecord (w : Word) (s : State) : (s.setPC w).faultRecord = s.faultRecord := rfl
@[simp] theorem State.setPC_raised (w : Word) (s : State) : (s.setPC w).raised = s.raised := rfl
@[simp] theorem State.setPC_config (w : Word) (s : State) : (s.setPC w).config = s.config := rfl
@[simp] theorem State.setPC_draws (w : Word) (s : State) : (s.setPC w).draws = s.draws := rfl

@[simp] theorem State.advancePC_mem (s : State) : (s.advancePC).mem = s.mem := rfl
@[simp] theorem State.advancePC_pc (s : State) : (s.advancePC).pc = s.pc + 1#16 := rfl
@[simp] theorem State.advancePC_ac (s : State) : (s.advancePC).ac = s.ac := rfl
@[simp] theorem State.advancePC_sp (s : State) : (s.advancePC).sp = s.sp := rfl
@[simp] theorem State.advancePC_mar (s : State) : (s.advancePC).mar = s.mar := rfl
@[simp] theorem State.advancePC_mbr (s : State) : (s.advancePC).mbr = s.mbr := rfl
@[simp] theorem State.advancePC_ir (s : State) : (s.advancePC).ir = s.ir := rfl
@[simp] theorem State.advancePC_flagZ (s : State) : (s.advancePC).flagZ = s.flagZ := rfl
@[simp] theorem State.advancePC_flagN (s : State) : (s.advancePC).flagN = s.flagN := rfl
@[simp] theorem State.advancePC_run (s : State) : (s.advancePC).run = s.run := rfl
@[simp] theorem State.advancePC_faultRecord (s : State) : (s.advancePC).faultRecord = s.faultRecord := rfl
@[simp] theorem State.advancePC_raised (s : State) : (s.advancePC).raised = s.raised := rfl
@[simp] theorem State.advancePC_config (s : State) : (s.advancePC).config = s.config := rfl
@[simp] theorem State.advancePC_draws (s : State) : (s.advancePC).draws = s.draws := rfl

@[simp] theorem State.setIR_mem (w : Word) (s : State) : (s.setIR w).mem = s.mem := rfl
@[simp] theorem State.setIR_pc (w : Word) (s : State) : (s.setIR w).pc = s.pc := rfl
@[simp] theorem State.setIR_ac (w : Word) (s : State) : (s.setIR w).ac = s.ac := rfl
@[simp] theorem State.setIR_sp (w : Word) (s : State) : (s.setIR w).sp = s.sp := rfl
@[simp] theorem State.setIR_mar (w : Word) (s : State) : (s.setIR w).mar = s.mar := rfl
@[simp] theorem State.setIR_mbr (w : Word) (s : State) : (s.setIR w).mbr = s.mbr := rfl
@[simp] theorem State.setIR_ir (w : Word) (s : State) : (s.setIR w).ir = w := rfl
@[simp] theorem State.setIR_flagZ (w : Word) (s : State) : (s.setIR w).flagZ = s.flagZ := rfl
@[simp] theorem State.setIR_flagN (w : Word) (s : State) : (s.setIR w).flagN = s.flagN := rfl
@[simp] theorem State.setIR_run (w : Word) (s : State) : (s.setIR w).run = s.run := rfl
@[simp] theorem State.setIR_faultRecord (w : Word) (s : State) : (s.setIR w).faultRecord = s.faultRecord := rfl
@[simp] theorem State.setIR_raised (w : Word) (s : State) : (s.setIR w).raised = s.raised := rfl
@[simp] theorem State.setIR_config (w : Word) (s : State) : (s.setIR w).config = s.config := rfl
@[simp] theorem State.setIR_draws (w : Word) (s : State) : (s.setIR w).draws = s.draws := rfl

@[simp] theorem State.latchOpcode_mem (w : Word) (s : State) : (s.latchOpcode w).mem = s.mem := rfl
@[simp] theorem State.latchOpcode_pc (w : Word) (s : State) : (s.latchOpcode w).pc = s.pc + 1#16 := rfl
@[simp] theorem State.latchOpcode_ac (w : Word) (s : State) : (s.latchOpcode w).ac = s.ac := rfl
@[simp] theorem State.latchOpcode_sp (w : Word) (s : State) : (s.latchOpcode w).sp = s.sp := rfl
@[simp] theorem State.latchOpcode_mar (w : Word) (s : State) : (s.latchOpcode w).mar = s.mar := rfl
@[simp] theorem State.latchOpcode_mbr (w : Word) (s : State) : (s.latchOpcode w).mbr = s.mbr := rfl
@[simp] theorem State.latchOpcode_ir (w : Word) (s : State) : (s.latchOpcode w).ir = w := rfl
@[simp] theorem State.latchOpcode_flagZ (w : Word) (s : State) : (s.latchOpcode w).flagZ = s.flagZ := rfl
@[simp] theorem State.latchOpcode_flagN (w : Word) (s : State) : (s.latchOpcode w).flagN = s.flagN := rfl
@[simp] theorem State.latchOpcode_run (w : Word) (s : State) : (s.latchOpcode w).run = s.run := rfl
@[simp] theorem State.latchOpcode_faultRecord (w : Word) (s : State) : (s.latchOpcode w).faultRecord = s.faultRecord := rfl
@[simp] theorem State.latchOpcode_raised (w : Word) (s : State) : (s.latchOpcode w).raised = s.raised := rfl
@[simp] theorem State.latchOpcode_config (w : Word) (s : State) : (s.latchOpcode w).config = s.config := rfl
@[simp] theorem State.latchOpcode_draws (w : Word) (s : State) : (s.latchOpcode w).draws = s.draws := rfl

@[simp] theorem State.stop_mem (s : State) : (s.stop).mem = s.mem := rfl
@[simp] theorem State.stop_pc (s : State) : (s.stop).pc = s.pc := rfl
@[simp] theorem State.stop_ac (s : State) : (s.stop).ac = s.ac := rfl
@[simp] theorem State.stop_sp (s : State) : (s.stop).sp = s.sp := rfl
@[simp] theorem State.stop_mar (s : State) : (s.stop).mar = s.mar := rfl
@[simp] theorem State.stop_mbr (s : State) : (s.stop).mbr = s.mbr := rfl
@[simp] theorem State.stop_ir (s : State) : (s.stop).ir = s.ir := rfl
@[simp] theorem State.stop_flagZ (s : State) : (s.stop).flagZ = s.flagZ := rfl
@[simp] theorem State.stop_flagN (s : State) : (s.stop).flagN = s.flagN := rfl
@[simp] theorem State.stop_run (s : State) : (s.stop).run = false := rfl
@[simp] theorem State.stop_faultRecord (s : State) : (s.stop).faultRecord = s.faultRecord := rfl
@[simp] theorem State.stop_raised (s : State) : (s.stop).raised = s.raised := rfl
@[simp] theorem State.stop_config (s : State) : (s.stop).config = s.config := rfl
@[simp] theorem State.stop_draws (s : State) : (s.stop).draws = s.draws := rfl

@[simp] theorem State.start_mem (s : State) : (s.start).mem = s.mem := rfl
@[simp] theorem State.start_pc (s : State) : (s.start).pc = s.pc := rfl
@[simp] theorem State.start_ac (s : State) : (s.start).ac = s.ac := rfl
@[simp] theorem State.start_sp (s : State) : (s.start).sp = s.sp := rfl
@[simp] theorem State.start_mar (s : State) : (s.start).mar = s.mar := rfl
@[simp] theorem State.start_mbr (s : State) : (s.start).mbr = s.mbr := rfl
@[simp] theorem State.start_ir (s : State) : (s.start).ir = s.ir := rfl
@[simp] theorem State.start_flagZ (s : State) : (s.start).flagZ = s.flagZ := rfl
@[simp] theorem State.start_flagN (s : State) : (s.start).flagN = s.flagN := rfl
@[simp] theorem State.start_run (s : State) : (s.start).run = true := rfl
@[simp] theorem State.start_faultRecord (s : State) : (s.start).faultRecord = s.faultRecord := rfl
@[simp] theorem State.start_raised (s : State) : (s.start).raised = s.raised := rfl
@[simp] theorem State.start_config (s : State) : (s.start).config = s.config := rfl
@[simp] theorem State.start_draws (s : State) : (s.start).draws = s.draws := rfl

@[simp] theorem State.clearRaised_mem (s : State) : (s.clearRaised).mem = s.mem := rfl
@[simp] theorem State.clearRaised_pc (s : State) : (s.clearRaised).pc = s.pc := rfl
@[simp] theorem State.clearRaised_ac (s : State) : (s.clearRaised).ac = s.ac := rfl
@[simp] theorem State.clearRaised_sp (s : State) : (s.clearRaised).sp = s.sp := rfl
@[simp] theorem State.clearRaised_mar (s : State) : (s.clearRaised).mar = s.mar := rfl
@[simp] theorem State.clearRaised_mbr (s : State) : (s.clearRaised).mbr = s.mbr := rfl
@[simp] theorem State.clearRaised_ir (s : State) : (s.clearRaised).ir = s.ir := rfl
@[simp] theorem State.clearRaised_flagZ (s : State) : (s.clearRaised).flagZ = s.flagZ := rfl
@[simp] theorem State.clearRaised_flagN (s : State) : (s.clearRaised).flagN = s.flagN := rfl
@[simp] theorem State.clearRaised_run (s : State) : (s.clearRaised).run = s.run := rfl
@[simp] theorem State.clearRaised_faultRecord (s : State) : (s.clearRaised).faultRecord = s.faultRecord := rfl
@[simp] theorem State.clearRaised_raised (s : State) : (s.clearRaised).raised = none := rfl
@[simp] theorem State.clearRaised_config (s : State) : (s.clearRaised).config = s.config := rfl
@[simp] theorem State.clearRaised_draws (s : State) : (s.clearRaised).draws = s.draws := rfl

@[simp] theorem State.recordFault_mem (f : Fault) (s : State) : (s.recordFault f).mem = s.mem := rfl
@[simp] theorem State.recordFault_pc (f : Fault) (s : State) : (s.recordFault f).pc = s.pc := rfl
@[simp] theorem State.recordFault_ac (f : Fault) (s : State) : (s.recordFault f).ac = s.ac := rfl
@[simp] theorem State.recordFault_sp (f : Fault) (s : State) : (s.recordFault f).sp = s.sp := rfl
@[simp] theorem State.recordFault_mar (f : Fault) (s : State) : (s.recordFault f).mar = s.mar := rfl
@[simp] theorem State.recordFault_mbr (f : Fault) (s : State) : (s.recordFault f).mbr = s.mbr := rfl
@[simp] theorem State.recordFault_ir (f : Fault) (s : State) : (s.recordFault f).ir = s.ir := rfl
@[simp] theorem State.recordFault_flagZ (f : Fault) (s : State) : (s.recordFault f).flagZ = s.flagZ := rfl
@[simp] theorem State.recordFault_flagN (f : Fault) (s : State) : (s.recordFault f).flagN = s.flagN := rfl
@[simp] theorem State.recordFault_run (f : Fault) (s : State) : (s.recordFault f).run = s.run := rfl
@[simp] theorem State.recordFault_faultRecord (f : Fault) (s : State) : (s.recordFault f).faultRecord = s.faultRecord.or (some f) := rfl
@[simp] theorem State.recordFault_raised (f : Fault) (s : State) : (s.recordFault f).raised = some f := rfl
@[simp] theorem State.recordFault_config (f : Fault) (s : State) : (s.recordFault f).config = s.config := rfl
@[simp] theorem State.recordFault_draws (f : Fault) (s : State) : (s.recordFault f).draws = s.draws := rfl

@[simp] theorem State.registerReset_mem (s : State) : (s.registerReset).mem = s.mem := rfl
@[simp] theorem State.registerReset_pc (s : State) : (s.registerReset).pc = 0#16 := rfl
@[simp] theorem State.registerReset_ac (s : State) : (s.registerReset).ac = 0 := rfl
@[simp] theorem State.registerReset_sp (s : State) : (s.registerReset).sp = spInit := rfl
@[simp] theorem State.registerReset_mar (s : State) : (s.registerReset).mar = 0#16 := rfl
@[simp] theorem State.registerReset_mbr (s : State) : (s.registerReset).mbr = 0#16 := rfl
@[simp] theorem State.registerReset_ir (s : State) : (s.registerReset).ir = 0#16 := rfl
@[simp] theorem State.registerReset_flagZ (s : State) : (s.registerReset).flagZ = false := rfl
@[simp] theorem State.registerReset_flagN (s : State) : (s.registerReset).flagN = false := rfl
@[simp] theorem State.registerReset_run (s : State) : (s.registerReset).run = s.run := rfl
@[simp] theorem State.registerReset_faultRecord (s : State) : (s.registerReset).faultRecord = none := rfl
@[simp] theorem State.registerReset_raised (s : State) : (s.registerReset).raised = none := rfl
@[simp] theorem State.registerReset_config (s : State) : (s.registerReset).config = s.config := rfl
@[simp] theorem State.registerReset_draws (s : State) : (s.registerReset).draws = s.draws := rfl

end Sys2Proof.Machine
end

