-- ==== Sys2Proof/Laws/Width.lean ====
section
/-! SUPPORT. The width functions as arithmetic, so that `omega` can close goals about them. -/

namespace Sys2Proof.Machine

theorem mask16_toNat (v : Int) : (mask16 v).toNat = (v % 65536).toNat := by
  simp [mask16, BitVec.toNat_ofInt]

theorem zext16_range (w : Word) : 0 ≤ zext16 w ∧ zext16 w ≤ 65535 := by
  have := w.isLt
  unfold zext16
  omega

theorem zext16_mask16 (v : Int) : zext16 (mask16 v) = v % 65536 := by
  rw [zext16, mask16_toNat]
  omega

@[simp] theorem mask16_zext16 (w : Word) : mask16 (zext16 w) = w := by
  apply BitVec.eq_of_toNat_eq
  have := w.isLt
  rw [mask16_toNat, zext16]
  omega

/-- The sign reading, by cases on the top bit. -/
theorem sext16_cases (w : Word) :
    (w.toNat < 32768 ∧ sext16 w = (w.toNat : Int)) ∨ (32768 ≤ w.toNat ∧ sext16 w = (w.toNat : Int) - 65536) := by
  unfold sext16
  split
  · exact .inl ⟨‹_›, rfl⟩
  · exact .inr ⟨by omega, rfl⟩

theorem sext16_range (w : Word) : -32768 ≤ sext16 w ∧ sext16 w ≤ 32767 := by
  have := w.isLt
  rcases sext16_cases w with ⟨h, e⟩ | ⟨h, e⟩ <;> omega

theorem sext16_emod (w : Word) : sext16 w % 65536 = zext16 w := by
  have := w.isLt
  unfold zext16
  rcases sext16_cases w with ⟨h, e⟩ | ⟨h, e⟩ <;> omega

/-- `sext_16` is the two's-complement value of the word. -/
theorem sext16_eq_toInt (w : Word) : sext16 w = w.toInt := by
  rw [BitVec.toInt_eq_toNat_cond]
  rcases sext16_cases w with ⟨h, e⟩ | ⟨h, e⟩
  · rw [e, if_pos (by omega)]
  · rw [e, if_neg (by omega)]
    norm_num

@[simp] theorem mask16_sext16 (w : Word) : mask16 (sext16 w) = w := by
  apply BitVec.eq_of_toNat_eq
  have := w.isLt
  rw [mask16_toNat, sext16_emod, zext16]
  omega

/-- A value in range is not changed by the 16-bit width. -/
theorem sext16_mask16 {v : Int} (h : -32768 ≤ v ∧ v ≤ 32767) : sext16 (mask16 v) = v := by
  have e := mask16_toNat v
  rcases sext16_cases (mask16 v) with ⟨h1, e1⟩ | ⟨h1, e1⟩ <;> omega

theorem mask16_eq_iff {u v : Int} : mask16 u = mask16 v ↔ u % 65536 = v % 65536 := by
  constructor
  · intro h
    rw [← zext16_mask16, ← zext16_mask16, h]
  · intro h
    apply BitVec.eq_of_toNat_eq
    rw [mask16_toNat, mask16_toNat, h]

@[simp] theorem wrap_refUnbounded (v : Int) : wrap .refUnbounded v = v := rfl

@[simp] theorem wrap_hw16 (v : Int) : wrap .hw16 v = sext16 (mask16 v) := rfl

/-- Both modes keep the low 16 bits. -/
@[simp] theorem mask16_wrap (mode : WordMode) (v : Int) : mask16 (wrap mode v) = mask16 v := by
  cases mode <;> simp

/-- All that `wrap` can give: the value itself, or under HW16 the value in range with the same low 16 bits. -/
theorem wrap_cases (mode : WordMode) (v : Int) :
    (mode = .refUnbounded ∧ wrap mode v = v) ∨
      (mode = .hw16 ∧ -32768 ≤ wrap mode v ∧ wrap mode v ≤ 32767 ∧ wrap mode v % 65536 = v % 65536) := by
  cases mode with
  | hw16 =>
    refine .inr ⟨rfl, (sext16_range _).1, (sext16_range _).2, ?_⟩
    rw [wrap_hw16, sext16_emod, zext16_mask16]
  | refUnbounded => exact .inl ⟨rfl, rfl⟩

/-- A value in -32768..32767 is not changed by either width. -/
theorem wrap_of_range (mode : WordMode) {v : Int} (h : -32768 ≤ v ∧ v ≤ 32767) : wrap mode v = v := by
  cases mode with
  | hw16 => exact sext16_mask16 h
  | refUnbounded => rfl

end Sys2Proof.Machine
end

