-- ==== Sys2Proof/Laws/Ops.lean ====
section
/-! SUPPORT. One lemma for each shared operation that says all it can do; proofs cite it instead of unfolding the operation. -/

namespace Sys2Proof.Machine

theorem memRead_valid {a : Int} (s : State) (h : validAddress a) :
    memRead a s = .done (s.mem.read a.toNat) (s.mirror a.toNat (s.mem.read a.toNat)) := by
  rw [memRead, if_pos h]

theorem memRead_invalid {a : Int} (s : State) (h : ¬ validAddress a) :
    memRead a s = .raised (.addressFault a) s := by
  rw [memRead, if_neg h]

theorem memWrite_valid {a : Int} (v : Int) (s : State) (h : validAddress a) :
    memWrite a v s = .done (mask16 v) ((s.setWord a.toNat (mask16 v)).mirror a.toNat (mask16 v)) := by
  rw [memWrite, if_pos h]

theorem memWrite_invalid {a : Int} (v : Int) (s : State) (h : ¬ validAddress a) :
    memWrite a v s = .raised (.addressFault a) s := by
  rw [memWrite, if_neg h]

@[simp] theorem takeFault_eq (f : Fault) (s : State) : takeFault f s = .next (s.recordFault f) := rfl

@[simp] theorem Access.finish_done (w : Word) (t : State) (k : Word → State → State) :
    (Access.done w t).finish k = .next (k w t) := rfl

@[simp] theorem Access.finish_raised (f : Fault) (t : State) (k : Word → State → State) :
    (Access.raised f t).finish k = .next (t.recordFault f) := rfl

/-- Whatever a primitive gives, the instruction that finishes it answers a next state. -/
theorem Access.finish_next (r : Access) (k : Word → State → State) : ∃ t, r.finish k = .next t := by
  cases r with
  | done w t => exact ⟨_, rfl⟩
  | raised f t => exact ⟨_, rfl⟩

/-- The state after a push has written its word and decremented SP. -/
def pushed (v : Int) (s : State) : State :=
  ((s.setWord s.sp.toNat (mask16 v)).mirror s.sp.toNat (mask16 v)).setSP (aluDec s.sp)

@[simp] theorem pushed_pc (v : Int) (s : State) : (pushed v s).pc = s.pc := rfl
@[simp] theorem pushed_ac (v : Int) (s : State) : (pushed v s).ac = s.ac := rfl
@[simp] theorem pushed_ir (v : Int) (s : State) : (pushed v s).ir = s.ir := rfl
@[simp] theorem pushed_flagZ (v : Int) (s : State) : (pushed v s).flagZ = s.flagZ := rfl
@[simp] theorem pushed_flagN (v : Int) (s : State) : (pushed v s).flagN = s.flagN := rfl
@[simp] theorem pushed_run (v : Int) (s : State) : (pushed v s).run = s.run := rfl
@[simp] theorem pushed_faultRecord (v : Int) (s : State) : (pushed v s).faultRecord = s.faultRecord := rfl
@[simp] theorem pushed_raised (v : Int) (s : State) : (pushed v s).raised = s.raised := rfl
@[simp] theorem pushed_config (v : Int) (s : State) : (pushed v s).config = s.config := rfl
@[simp] theorem pushed_mem (v : Int) (s : State) : (pushed v s).mem = s.mem.write s.sp.toNat (mask16 v) := rfl
@[simp] theorem pushed_mar (v : Int) (s : State) : (pushed v s).mar = mirroredAddress s.sp.toNat s := rfl
@[simp] theorem pushed_mbr (v : Int) (s : State) : (pushed v s).mbr = mirroredWord (mask16 v) s := rfl
@[simp] theorem pushed_draws (v : Int) (s : State) : (pushed v s).draws = drawsAfterAccess s := rfl

/-- SP after a push at a valid SP: the decrement never wraps. -/
theorem pushed_sp {v : Int} {s : State} (h : validAddress s.sp) : (pushed v s).sp = s.sp - 1 := by
  have : wrap s.config.wordMode (s.sp - 1) = s.sp - 1 := wrap_of_range _ (by omega)
  simpa [pushed, aluDec] using this

/-- All that `Push(v)` can do. -/
theorem push_cases (v : Int) (s : State) :
    (¬ validAddress s.sp ∧ push v s = .raised (.addressFault s.sp) s) ∨
      (validAddress s.sp ∧ 1 ≤ s.sp ∧ push v s = .done (mask16 v) (pushed v s)) ∨
      (s.sp = 0 ∧ push v s = .raised (.stackOverflow (-1)) (pushed v s)) := by
  by_cases h : validAddress s.sp
  · have hsp := pushed_sp (v := v) h
    rw [push, memWrite_valid v s h]
    change _ ∨ _ ∧ _ ∧ (if (pushed v s).sp < 0 then Access.raised (.stackOverflow (pushed v s).sp) (pushed v s) else
        Access.done (mask16 v) (pushed v s)) = _ ∨ _ ∧ (if (pushed v s).sp < 0 then Access.raised (.stackOverflow (pushed v s).sp) (pushed v s) else
        Access.done (mask16 v) (pushed v s)) = _
    rw [hsp]
    by_cases h0 : s.sp = 0
    · exact .inr (.inr ⟨h0, by rw [if_pos (by omega), h0]; rfl⟩)
    · exact .inr (.inl ⟨h, by omega, by rw [if_neg (by omega)]⟩)
  · exact .inl ⟨h, by rw [push, memWrite_invalid v s h]⟩

/-- The state after a pop has incremented SP. -/
def popped (s : State) : State :=
  s.setSP (aluInc s.sp)

@[simp] theorem popped_sp (s : State) : (popped s).sp = wrap s.config.wordMode (s.sp + 1) := rfl

@[simp] theorem popped_mem (s : State) : (popped s).mem = s.mem := rfl
@[simp] theorem popped_pc (s : State) : (popped s).pc = s.pc := rfl
@[simp] theorem popped_ac (s : State) : (popped s).ac = s.ac := rfl
@[simp] theorem popped_mar (s : State) : (popped s).mar = s.mar := rfl
@[simp] theorem popped_mbr (s : State) : (popped s).mbr = s.mbr := rfl
@[simp] theorem popped_ir (s : State) : (popped s).ir = s.ir := rfl
@[simp] theorem popped_flagZ (s : State) : (popped s).flagZ = s.flagZ := rfl
@[simp] theorem popped_flagN (s : State) : (popped s).flagN = s.flagN := rfl
@[simp] theorem popped_run (s : State) : (popped s).run = s.run := rfl
@[simp] theorem popped_faultRecord (s : State) : (popped s).faultRecord = s.faultRecord := rfl
@[simp] theorem popped_raised (s : State) : (popped s).raised = s.raised := rfl
@[simp] theorem popped_config (s : State) : (popped s).config = s.config := rfl
@[simp] theorem popped_draws (s : State) : (popped s).draws = s.draws := rfl

/-- All that `Pop()` can do. -/
theorem pop_cases (s : State) :
    (4096 ≤ (popped s).sp ∧ pop s = .raised (.stackUnderflow (popped s).sp) (popped s)) ∨
      ((popped s).sp < 0 ∧ pop s = .raised (.addressFault (popped s).sp) (popped s)) ∨
      (validAddress (popped s).sp ∧
        pop s = .done (s.mem.read (popped s).sp.toNat) ((popped s).mirror (popped s).sp.toNat (s.mem.read (popped s).sp.toNat))) := by
  change _ ∧ (if 4096 ≤ (popped s).sp then _ else memRead (popped s).sp (popped s)) = _ ∨
    _ ∧ (if 4096 ≤ (popped s).sp then _ else memRead (popped s).sp (popped s)) = _ ∨
    _ ∧ (if 4096 ≤ (popped s).sp then _ else memRead (popped s).sp (popped s)) = _
  by_cases h : 4096 ≤ (popped s).sp
  · exact .inl ⟨h, by rw [if_pos h]; rfl⟩
  · by_cases h0 : (popped s).sp < 0
    · exact .inr (.inl ⟨h0, by rw [if_neg h, memRead_invalid _ (by omega)]⟩)
    · exact .inr (.inr ⟨by omega, by rw [if_neg h, memRead_valid _ (by omega)]; rfl⟩)

/-- MAR stays in 0..4095 under either policy. -/
theorem mirroredAddress_range {a : Nat} (s : State) (h : a ≤ 4095) : (mirroredAddress a s).toNat ≤ 4095 := by
  unfold mirroredAddress
  split
  · simp; omega
  · have := (Config.freeMar s.draws).isLt
    simp; omega

theorem mirroredAddress_everyAccess {a : Nat} {s : State} (h : s.config.marMbrPolicy = .everyAccess) :
    mirroredAddress a s = BitVec.ofNat 16 a := by
  rw [mirroredAddress, h]

theorem mirroredWord_everyAccess {w : Word} {s : State} (h : s.config.marMbrPolicy = .everyAccess) :
    mirroredWord w s = w := by
  rw [mirroredWord, h]

/-- A jump changes PC and nothing else. -/
theorem State.jumpIf_eq (c : Bool) (target : Word) (s : State) :
    s.jumpIf c target = { s with pc := if c then target else s.pc + 1#16 } := by
  cases c <;> rfl

/-- A read followed by the rest of the execute phase. -/
theorem memRead_finish (a : Int) (s : State) (k : Word → State → State) :
    (memRead a s).finish k =
      if validAddress a then .next (k (s.mem.read a.toNat) (s.mirror a.toNat (s.mem.read a.toNat)))
      else .next (s.recordFault (.addressFault a)) := by
  by_cases h : validAddress a
  · rw [memRead_valid s h, if_pos h, Access.finish_done]
  · rw [memRead_invalid s h, if_neg h, Access.finish_raised]

/-- A write followed by the rest of the execute phase. -/
theorem memWrite_finish (a v : Int) (s : State) (k : Word → State → State) :
    (memWrite a v s).finish k =
      if validAddress a then .next (k (mask16 v) ((s.setWord a.toNat (mask16 v)).mirror a.toNat (mask16 v)))
      else .next (s.recordFault (.addressFault a)) := by
  by_cases h : validAddress a
  · rw [memWrite_valid v s h, if_pos h, Access.finish_done]
  · rw [memWrite_invalid v s h, if_neg h, Access.finish_raised]

/-- A push followed by the rest of the execute phase. -/
theorem push_finish (v : Int) (s : State) (k : Word → State → State) :
    (push v s).finish k =
      if ¬ validAddress s.sp then .next (s.recordFault (.addressFault s.sp))
      else if s.sp = 0 then .next ((pushed v s).recordFault (.stackOverflow (-1)))
      else .next (k (mask16 v) (pushed v s)) := by
  rcases push_cases v s with ⟨h, e⟩ | ⟨h, h1, e⟩ | ⟨h, e⟩
  · rw [e, if_pos h, Access.finish_raised]
  · rw [e, if_neg (not_not.mpr h), if_neg (by omega), Access.finish_done]
  · rw [e, if_neg (by omega), if_pos h, Access.finish_raised]

/-- A pop followed by the rest of the execute phase. -/
theorem pop_finish (s : State) (k : Word → State → State) :
    (pop s).finish k =
      if 4096 ≤ (popped s).sp then .next ((popped s).recordFault (.stackUnderflow (popped s).sp))
      else if (popped s).sp < 0 then .next ((popped s).recordFault (.addressFault (popped s).sp))
      else .next (k (s.mem.read (popped s).sp.toNat)
        ((popped s).mirror (popped s).sp.toNat (s.mem.read (popped s).sp.toNat))) := by
  rcases pop_cases s with ⟨h, e⟩ | ⟨h, e⟩ | ⟨h, e⟩
  · rw [e, if_pos h, Access.finish_raised]
  · rw [e, if_neg (by omega), if_pos h, Access.finish_raised]
  · rw [e, if_neg (by omega), if_neg (by omega), Access.finish_done]

end Sys2Proof.Machine
end

