-- ==== Sys2Proof/Laws/Canonical.lean ====
section
/-! SUPPORT. Every operation that writes memory keeps its canonical form: the store, the push, load, and the placing of an instruction. -/

namespace Sys2Proof.Machine

/-- The state a primitive leaves, fault or not. -/
def Access.after : Access → State
  | .done _ t => t
  | .raised _ t => t

theorem memWrite_wf {s : State} (a v : Int) (h : s.mem.wf = true) : (memWrite a v s).after.mem.wf = true := by
  by_cases ha : validAddress a
  · rw [memWrite_valid v s ha]
    exact Memory.write_wf _ (by omega) h
  · rw [memWrite_invalid v s ha]
    exact h

theorem memRead_wf {s : State} (a : Int) (h : s.mem.wf = true) : (memRead a s).after.mem.wf = true := by
  by_cases ha : validAddress a
  · rw [memRead_valid s ha]
    exact h
  · rw [memRead_invalid s ha]
    exact h

theorem pushed_wf {s : State} (v : Int) (hs : validAddress s.sp) (h : s.mem.wf = true) : (pushed v s).mem.wf = true :=
  Memory.write_wf _ (by omega) h

theorem push_wf {s : State} (v : Int) (h : s.mem.wf = true) : (push v s).after.mem.wf = true := by
  rcases push_cases v s with ⟨-, e⟩ | ⟨hs, -, e⟩ | ⟨hs, e⟩ <;> rw [e]
  · exact h
  · exact pushed_wf v hs h
  · exact pushed_wf v (by omega) h

theorem pop_wf {s : State} (h : s.mem.wf = true) : (pop s).after.mem.wf = true := by
  rcases pop_cases s with ⟨-, e⟩ | ⟨-, e⟩ | ⟨-, e⟩ <;> rw [e] <;> exact h

/-- The memory of an image that `load` accepts is canonical. -/
theorem loadedMemory_wf {words : List Int} (h : imageWf words = true) : (loadedMemory words).wf = true := by
  have hl : words.length ≤ 4096 := of_decide_eq_true h
  exact Memory.writeImage_wf (m := []) rfl (by simpa using hl)

theorem hostLoad_wf {words : List Int} {s t : State} (h : hostLoad words s = .next t) : t.mem.wf = true := by
  unfold hostLoad at h
  split at h
  · rename_i hw
    cases h
    exact loadedMemory_wf hw
  · cases h

theorem placeAddress_fits (s : State) : s.placeAddress + 1 < 4096 := by
  unfold State.placeAddress memWords
  split <;> omega

theorem withFetchWord_wf {s : State} (nbits w : Nat) (h : s.mem.wf = true) : (s.withFetchWord nbits w).mem.wf = true :=
  Memory.write_wf _ (placeAddress_fits s) (Memory.write_wf _ (by have := placeAddress_fits s; omega) h)

end Sys2Proof.Machine
end

