-- ==== Sys2Proof/Laws/Decode.lean ====
section
/-! SUPPORT. The small lemmas of the decoder's stages. -/

namespace Sys2Proof

@[simp] theorem decodeOpcode_word (op : Opcode) : decodeOpcode op.word = some op := by
  cases op <;> rfl

/-- The word is the only one that decodes to its opcode. -/
theorem decodeOpcode_eq_some {w : Word} {op : Opcode} (h : decodeOpcode w = some op) : w = op.word := by
  apply BitVec.eq_of_toNat_eq
  unfold decodeOpcode at h
  split at h <;> first
    | (rename_i hw; rw [hw]; cases h; rfl)
    | cases h

/-- The opcodes are the words 0x0000..0x0010. -/
theorem decodeOpcode_some_of_le {w : Word} (h : w.toNat ≤ 0x10) : ∃ op, decodeOpcode w = some op := by
  unfold decodeOpcode
  generalize w.toNat = n at h
  interval_cases n <;> exact ⟨_, rfl⟩

theorem Opcode.word_le (op : Opcode) : op.word.toNat ≤ 0x10 := by
  cases op <;> decide

@[simp] theorem Opcode.instr_opcode (op : Opcode) (k : Word) : (op.instr k).opcode = op := by
  cases op <;> rfl

end Sys2Proof
end

