-- ==== Sys2Proof/Laws/Exec.lean ====
section
/-! SUPPORT. The execute phase of each instruction as one equation over the updates of the state: which state it answers, and on what
condition. Proofs about an instruction start from its equation and never unfold its meaning. -/

namespace Sys2Proof.Machine

/-- A data address is valid exactly when the operand word is at most 4095 (20_memory.md R51). -/
theorem validAddress_dataAddress (a : Word) : validAddress (dataAddress a) ↔ a.toNat ≤ 4095 := by
  unfold dataAddress zext16
  omega

@[simp] theorem dataAddress_toNat (a : Word) : (dataAddress a).toNat = a.toNat := by
  simp [dataAddress, zext16]

/-- The four instructions that read `m = M[A]` and write AC, `result` being what they compute from AC and `m`. -/
theorem readDirect_finish (a : Word) (s : State) (result : Int → Word → Int) :
    ((memRead (dataAddress a) s).finish fun m t => (t.setAC (result t.ac m)).advancePC) =
      if a.toNat ≤ 4095 then
        .next ((s.mirror a.toNat (s.mem.read a.toNat)).setAC (result s.ac (s.mem.read a.toNat))).advancePC
      else .next (s.recordFault (.addressFault a.toNat)) := by
  simp only [memRead_finish, validAddress_dataAddress, dataAddress_toNat, State.mirror_ac]
  rfl

theorem exec_lodd (a : Word) (s : State) : exec (.lodd a) s =
    if a.toNat ≤ 4095 then
      .next ((s.mirror a.toNat (s.mem.read a.toNat)).setAC (zext16 (s.mem.read a.toNat))).advancePC
    else .next (s.recordFault (.addressFault a.toNat)) :=
  readDirect_finish a s fun _ m => aluPass m

theorem exec_addd (a : Word) (s : State) : exec (.addd a) s =
    if a.toNat ≤ 4095 then
      .next ((s.mirror a.toNat (s.mem.read a.toNat)).setAC (s.ac + zext16 (s.mem.read a.toNat))).advancePC
    else .next (s.recordFault (.addressFault a.toNat)) :=
  readDirect_finish a s aluAdd

theorem exec_subd (a : Word) (s : State) : exec (.subd a) s =
    if a.toNat ≤ 4095 then
      .next ((s.mirror a.toNat (s.mem.read a.toNat)).setAC (s.ac - zext16 (s.mem.read a.toNat))).advancePC
    else .next (s.recordFault (.addressFault a.toNat)) :=
  readDirect_finish a s aluSub

theorem exec_stodl (a : Word) (s : State) : exec (.stodl a) s =
    if a.toNat ≤ 4095 then
      .next ((s.mirror a.toNat (s.mem.read a.toNat)).setAC (aluOr s.ac (s.mem.read a.toNat))).advancePC
    else .next (s.recordFault (.addressFault a.toNat)) :=
  readDirect_finish a s aluOr

theorem exec_stod (a : Word) (s : State) : exec (.stod a) s =
    if a.toNat ≤ 4095 then
      .next ((s.setWord a.toNat (mask16 s.ac)).mirror a.toNat (mask16 s.ac)).advancePC
    else .next (s.recordFault (.addressFault a.toNat)) := by
  change (memWrite (dataAddress a) s.ac s).finish _ = _
  simp only [memWrite_finish, validAddress_dataAddress, dataAddress_toNat]
  rfl

theorem exec_loco (k : Word) (s : State) : exec (.loco k) s = .next (s.setAC (zext16 k)).advancePC := rfl

theorem exec_jpos (a : Word) (s : State) : exec (.jpos a) s = .next (s.jumpIf (!s.flagN && !s.flagZ) a) := rfl

theorem exec_jump (a : Word) (s : State) : exec (.jump a) s = .next (s.setPC a) := rfl

theorem exec_jzer (a : Word) (s : State) : exec (.jzer a) s = .next (s.jumpIf s.flagZ a) := rfl

theorem exec_jneg (a : Word) (s : State) : exec (.jneg a) s = .next (s.jumpIf s.flagN a) := rfl

theorem exec_addl (s : State) : exec .addl s =
    if validAddress s.sp then
      .next ((s.mirror s.sp.toNat (s.mem.read s.sp.toNat)).setAC (s.ac + zext16 (s.mem.read s.sp.toNat)))
    else .next (s.recordFault (.addressFault s.sp)) :=
  memRead_finish s.sp s _

theorem exec_insp (s : State) : exec .insp s = .next (s.setSPFlags (s.sp + 1)) := rfl

theorem exec_push (s : State) : exec .push s =
    if ¬ validAddress s.sp then .next (s.recordFault (.addressFault s.sp))
    else if s.sp = 0 then .next ((pushed s.ac s).recordFault (.stackOverflow (-1)))
    else .next (pushed s.ac s) :=
  push_finish s.ac s _

theorem exec_pop (s : State) : exec .pop s =
    if 4096 ≤ (popped s).sp then .next ((popped s).recordFault (.stackUnderflow (popped s).sp))
    else if (popped s).sp < 0 then .next ((popped s).recordFault (.addressFault (popped s).sp))
    else .next (((popped s).mirror (popped s).sp.toNat (s.mem.read (popped s).sp.toNat)).setAC
      (zext16 (s.mem.read (popped s).sp.toNat))) :=
  pop_finish s _

theorem exec_halt (s : State) : exec .halt s = .next s.stop := rfl

theorem exec_ins (s : State) : exec .ins s = .next s := rfl

theorem exec_out (s : State) : exec .out s = .next s := rfl

end Sys2Proof.Machine
end

