-- ==== Sys2Proof/Laws/PerInstr.lean ====
section
/-! SUPPORT. Per-instruction laws about the encoding as syntax. -/

namespace Sys2Proof.Laws.EncodeShape

/-- The encoder gives a well-formed word sequence: a legal opcode word, with as many words as that opcode word asks for
(30_encoding.md R80, R81, R85), the opcode word being the table's for the instruction (R86). -/
def Statement (i : Instr) : Prop :=
  instrWordsWf (encode i) = true ∧ (encode i).head? = some i.opcode.word

theorem halt : Statement .halt := ⟨rfl, rfl⟩
theorem lodd (a : Word) : Statement (.lodd a) := ⟨rfl, rfl⟩
theorem stod (a : Word) : Statement (.stod a) := ⟨rfl, rfl⟩
theorem addd (a : Word) : Statement (.addd a) := ⟨rfl, rfl⟩
theorem subd (a : Word) : Statement (.subd a) := ⟨rfl, rfl⟩
theorem jpos (a : Word) : Statement (.jpos a) := ⟨rfl, rfl⟩
theorem stodl (a : Word) : Statement (.stodl a) := ⟨rfl, rfl⟩
theorem loco (k : Word) : Statement (.loco k) := ⟨rfl, rfl⟩
theorem jump (a : Word) : Statement (.jump a) := ⟨rfl, rfl⟩
theorem jzer (a : Word) : Statement (.jzer a) := ⟨rfl, rfl⟩
theorem jneg (a : Word) : Statement (.jneg a) := ⟨rfl, rfl⟩
theorem addl : Statement .addl := ⟨rfl, rfl⟩
theorem insp : Statement .insp := ⟨rfl, rfl⟩
theorem push : Statement .push := ⟨rfl, rfl⟩
theorem pop : Statement .pop := ⟨rfl, rfl⟩
theorem ins : Statement .ins := ⟨rfl, rfl⟩
theorem out : Statement .out := ⟨rfl, rfl⟩

end Sys2Proof.Laws.EncodeShape
end

