-- ==== Sys2Proof/Laws/Step.lean ====
section
/-! SUPPORT. What a step can do, said once: which part of a step ends it, and with what state the execute phase starts. -/

namespace Sys2Proof.Machine

/-- The state after the opcode word at PC has been fetched. -/
def fetched (s : State) : State :=
  (s.clearRaised.mirror s.pc.toNat (s.mem.read s.pc.toNat)).latchOpcode (s.mem.read s.pc.toNat)

/-- The state after the operand word has been fetched too. -/
def fetchedOperand (s : State) : State :=
  (fetched s).mirror (s.pc.toNat + 1) (s.mem.read (s.pc.toNat + 1))

@[simp] theorem fetched_mem (s : State) : (fetched s).mem = s.mem := rfl
@[simp] theorem fetched_ac (s : State) : (fetched s).ac = s.ac := rfl
@[simp] theorem fetched_sp (s : State) : (fetched s).sp = s.sp := rfl
@[simp] theorem fetched_flagZ (s : State) : (fetched s).flagZ = s.flagZ := rfl
@[simp] theorem fetched_flagN (s : State) : (fetched s).flagN = s.flagN := rfl
@[simp] theorem fetched_run (s : State) : (fetched s).run = s.run := rfl
@[simp] theorem fetched_faultRecord (s : State) : (fetched s).faultRecord = s.faultRecord := rfl
@[simp] theorem fetched_config (s : State) : (fetched s).config = s.config := rfl
@[simp] theorem fetched_pc (s : State) : (fetched s).pc = s.pc + 1#16 := rfl
@[simp] theorem fetched_ir (s : State) : (fetched s).ir = s.mem.read s.pc.toNat := rfl
@[simp] theorem fetched_raised (s : State) : (fetched s).raised = none := rfl
@[simp] theorem fetched_mar (s : State) : (fetched s).mar = mirroredAddress s.pc.toNat s := rfl
@[simp] theorem fetched_mbr (s : State) : (fetched s).mbr = mirroredWord (s.mem.read s.pc.toNat) s := rfl
@[simp] theorem fetched_draws (s : State) : (fetched s).draws = drawsAfterAccess s := rfl

@[simp] theorem fetchedOperand_mem (s : State) : (fetchedOperand s).mem = s.mem := rfl
@[simp] theorem fetchedOperand_ac (s : State) : (fetchedOperand s).ac = s.ac := rfl
@[simp] theorem fetchedOperand_sp (s : State) : (fetchedOperand s).sp = s.sp := rfl
@[simp] theorem fetchedOperand_flagZ (s : State) : (fetchedOperand s).flagZ = s.flagZ := rfl
@[simp] theorem fetchedOperand_flagN (s : State) : (fetchedOperand s).flagN = s.flagN := rfl
@[simp] theorem fetchedOperand_run (s : State) : (fetchedOperand s).run = s.run := rfl
@[simp] theorem fetchedOperand_faultRecord (s : State) : (fetchedOperand s).faultRecord = s.faultRecord := rfl
@[simp] theorem fetchedOperand_config (s : State) : (fetchedOperand s).config = s.config := rfl
@[simp] theorem fetchedOperand_pc (s : State) : (fetchedOperand s).pc = s.pc + 1#16 := rfl
@[simp] theorem fetchedOperand_ir (s : State) : (fetchedOperand s).ir = s.mem.read s.pc.toNat := rfl
@[simp] theorem fetchedOperand_raised (s : State) : (fetchedOperand s).raised = none := rfl
@[simp] theorem fetchedOperand_mar (s : State) : (fetchedOperand s).mar = mirroredAddress (s.pc.toNat + 1) (fetched s) := rfl
@[simp] theorem fetchedOperand_mbr (s : State) : (fetchedOperand s).mbr = mirroredWord (s.mem.read (s.pc.toNat + 1)) (fetched s) := rfl
@[simp] theorem fetchedOperand_draws (s : State) : (fetchedOperand s).draws = drawsAfterAccess (fetched s) := rfl

/-- The fetch of a valid PC reads the word there. -/
theorem fetchWord_valid {s : State} (h : s.pc.toNat ≤ 4095) :
    fetchWord s = .done (s.mem.read s.pc.toNat) (s.mirror s.pc.toNat (s.mem.read s.pc.toNat)) := by
  have hz : (zext16 s.pc).toNat = s.pc.toNat := by simp [zext16]
  rw [fetchWord, memRead_valid s (by unfold zext16; omega), hz]

theorem fetched_pc_toNat {s : State} (h : s.pc.toNat ≤ 4095) : (fetched s).pc.toNat = s.pc.toNat + 1 := by
  simp [fetched, BitVec.toNat_add]
  omega

/-- All that the part of a step before the execute phase can do, in the order of 60_exceptions.md R209. -/
theorem beginStep_cases (s : State) :
    (s.run = false ∧ beginStep s = .stopped s.clearRaised) ∨
      (s.run = true ∧ 4096 ≤ s.pc.toNat ∧ beginStep s = .stopped s.clearRaised.stop) ∨
      (s.run = true ∧ s.pc.toNat ≤ 4095 ∧ decodeOpcode (s.mem.read s.pc.toNat) = none ∧
        beginStep s = .raised (.illegalOpcode (s.mem.read s.pc.toNat)) (fetched s)) ∨
      (∃ op : Opcode, s.run = true ∧ s.pc.toNat ≤ 4095 ∧ decodeOpcode (s.mem.read s.pc.toNat) = some op ∧ op.format = .n ∧
        beginStep s = .instr (op.instr 0) (fetched s)) ∨
      (∃ op : Opcode, s.run = true ∧ s.pc.toNat = 4095 ∧ decodeOpcode (s.mem.read s.pc.toNat) = some op ∧ op.format = .a ∧
        beginStep s = .raised (.addressFault 4096) (fetched s)) ∨
      (∃ op : Opcode, s.run = true ∧ s.pc.toNat ≤ 4094 ∧ decodeOpcode (s.mem.read s.pc.toNat) = some op ∧ op.format = .a ∧
        beginStep s = .instr (op.instr (s.mem.read (s.pc.toNat + 1))) (fetchedOperand s)) := by
  by_cases hr : s.run = false
  · exact .inl ⟨hr, by rw [beginStep, if_pos hr]⟩
  have hr' : s.run = true := by simpa using hr
  by_cases hp : 4096 ≤ s.pc.toNat
  · exact .inr (.inl ⟨hr', hp, by rw [beginStep, if_neg hr, if_pos (show memWords ≤ _ from hp)]⟩)
  have hb : beginStep s = decodeFetched (s.mem.read s.pc.toNat) (fetched s) := by
    rw [beginStep, if_neg hr, if_neg (show ¬ memWords ≤ _ from hp), fetchInstr,
      fetchWord_valid (s := s.clearRaised) (by simp; omega)]
    rfl
  rw [hb, decodeFetched]
  cases hd : decodeOpcode (s.mem.read s.pc.toNat) with
  | none => exact .inr (.inr (.inl ⟨hr', by omega, rfl, rfl⟩))
  | some op =>
    cases hf : op.format with
    | n => exact .inr (.inr (.inr (.inl ⟨op, hr', by omega, rfl, hf, by simp only [hf]⟩)))
    | a =>
      have hpc : (fetched s).pc.toNat = s.pc.toNat + 1 := fetched_pc_toNat (by omega)
      by_cases h5 : s.pc.toNat = 4095
      · refine .inr (.inr (.inr (.inr (.inl ⟨op, hr', h5, rfl, hf, ?_⟩))))
        have hz : zext16 (fetched s).pc = 4096 := by rw [zext16, hpc, h5]; rfl
        simp only [hf, fetchOperand, fetchWord, hz]
        rw [memRead_invalid _ (by omega)]
      · refine .inr (.inr (.inr (.inr (.inr ⟨op, hr', by omega, rfl, hf, ?_⟩))))
        simp only [hf, fetchOperand]
        rw [fetchWord_valid (by omega), hpc]
        rfl

/-- The inversion of a step: what it did, if it answers `t`. -/
theorem step_cases {s t : State} (h : step s = .next t) :
    (s.run = false ∧ t = s.clearRaised) ∨
      (s.run = true ∧ 4096 ≤ s.pc.toNat ∧ t = s.clearRaised.stop) ∨
      (s.run = true ∧ s.pc.toNat ≤ 4095 ∧ decodeOpcode (s.mem.read s.pc.toNat) = none ∧
        t = (fetched s).recordFault (.illegalOpcode (s.mem.read s.pc.toNat))) ∨
      (∃ op : Opcode, s.run = true ∧ s.pc.toNat ≤ 4095 ∧ s.mem.read s.pc.toNat = op.word ∧ op.format = .n ∧
        exec (op.instr 0) (fetched s) = .next t) ∨
      (∃ op : Opcode, s.run = true ∧ s.pc.toNat = 4095 ∧ s.mem.read s.pc.toNat = op.word ∧ op.format = .a ∧
        t = (fetched s).recordFault (.addressFault 4096)) ∨
      (∃ op : Opcode, s.run = true ∧ s.pc.toNat ≤ 4094 ∧ s.mem.read s.pc.toNat = op.word ∧ op.format = .a ∧
        exec (op.instr (s.mem.read (s.pc.toNat + 1))) (fetchedOperand s) = .next t) := by
  unfold step at h
  rcases beginStep_cases s with ⟨h1, e⟩ | ⟨h1, h2, e⟩ | ⟨h1, h2, h3, e⟩ | ⟨op, h1, h2, h3, h4, e⟩ | ⟨op, h1, h2, h3, h4, e⟩ |
    ⟨op, h1, h2, h3, h4, e⟩ <;> rw [e] at h
  · exact .inl ⟨h1, by cases h; rfl⟩
  · exact .inr (.inl ⟨h1, h2, by cases h; rfl⟩)
  · exact .inr (.inr (.inl ⟨h1, h2, h3, by cases h; rfl⟩))
  · exact .inr (.inr (.inr (.inl ⟨op, h1, h2, decodeOpcode_eq_some h3, h4, h⟩)))
  · exact .inr (.inr (.inr (.inr (.inl ⟨op, h1, h2, decodeOpcode_eq_some h3, h4, by cases h; rfl⟩))))
  · exact .inr (.inr (.inr (.inr (.inr ⟨op, h1, h2, decodeOpcode_eq_some h3, h4, h⟩))))

end Sys2Proof.Machine
end

