-- ==== Sys2Proof/Tests/Slice0.lean ====
section
/-! SUPPORT. Tests of the model: the well-formedness checks on ill-formed terms, every instruction's word written out bit by bit from
30_encoding.md R82, R83, R86, single steps whose results are those of 95_test_vectors.md (its row numbers are in the names), and for
every obligation with hypotheses a concrete state that meets them. -/

open Sys2Proof Sys2Proof.Machine

namespace Sys2Proof.Tests

/-- The fresh state of the vectors: HW16, EVERY_ACCESS. -/
def fresh : State := State.reset

/-- The fresh state of a REF_UNBOUNDED core. -/
def freshRef : State :=
  { State.reset with config := { wordMode := .refUnbounded, marMbrPolicy := .everyAccess } }

/-- The fresh state of an UNCONSTRAINED core. -/
def freshFree : State :=
  { State.reset with config := { wordMode := .hw16, marMbrPolicy := .unconstrained } }

/-- `s` about to run the words at address `p`. -/
def put (p : Nat) (words : List Word) (s : State) : State :=
  { s with pc := BitVec.ofNat 16 p, mem := s.mem.writeImage p words }

/-- `s` with `M[a] = w`. -/
def poke (a : Nat) (w : Word) (s : State) : State :=
  { s with mem := s.mem.write a w }

/-- `s` with AC and the flags of AC. -/
def withAC (v : Int) (s : State) : State :=
  { s with ac := v, flagZ := decide (v = 0), flagN := decide (v < 0) }

/-- `s` with SP. -/
def withSP (v : Int) (s : State) : State :=
  { s with sp := v }

/-- The state after one step. -/
def ran (s : State) : Option State :=
  match step s with
  | .next t => some t
  | .fault _ => none
  | .refused _ => none

/-- AC, Z and N after one step. -/
def acAfter (s : State) : Option (Int × Bool × Bool) :=
  (ran s).map fun t => (t.ac, t.flagZ, t.flagN)

/-- SP, Z and N after one step. -/
def spAfter (s : State) : Option (Int × Bool × Bool) :=
  (ran s).map fun t => (t.sp, t.flagZ, t.flagN)

/-- PC after one step. -/
def pcAfter (s : State) : Option Nat :=
  (ran s).map fun t => t.pc.toNat

/-- MAR and MBR after one step. -/
def mirrorAfter (s : State) : Option (Nat × Nat) :=
  (ran s).map fun t => (t.mar.toNat, t.mbr.toNat)

/-- The fault raised by one step, with PC, AC and SP after it. -/
def faultAfter (s : State) : Option (Option Fault × Nat × Int × Int) :=
  (ran s).map fun t => (t.raised, t.pc.toNat, t.ac, t.sp)

/-- The word at `a` after one step. -/
def wordAfter (a : Nat) (s : State) : Option Nat :=
  (ran s).map fun t => (t.mem.read a).toNat

/-! ### Well-formedness: the checks refuse ill-formed terms -/

theorem test_wf_opcode_word : opcodeWordWf 0x0010#16 = true ∧ opcodeWordWf 0x0011#16 = false ∧ opcodeWordWf 0x0101#16 = false ∧
    opcodeWordWf 0x0100#16 = false ∧ opcodeWordWf 0xFFFF#16 = false := by decide

theorem test_wf_instr_words : instrWordsWf [] = false ∧ instrWordsWf [0x0007#16] = false ∧ instrWordsWf [0x000D#16, 0#16] = false ∧
    instrWordsWf [0x0007#16, 1#16, 2#16] = false ∧ instrWordsWf [0x0011#16] = false ∧ instrWordsWf [0x0007#16, 5#16] = true := by
  decide

theorem test_wf_image : imageWf (List.replicate 4097 0) = false ∧ imageWf (List.replicate 4096 0) = true := by
  constructor <;> rw [imageWf, List.length_replicate] <;> decide

theorem test_wf_memory : Memory.wf [(3, 1#16), (3, 2#16)] = false ∧ Memory.wf [(4, 1#16), (3, 2#16)] = false ∧
    Memory.wf [(3, 0#16)] = false ∧ Memory.wf [(4096, 1#16)] = false ∧ Memory.wf [(3, 1#16), (4095, 2#16)] = true := by decide

/-! ### Decode: each instruction's word, bits [15:8] and [7:0] as the table of R86 gives them -/

theorem test_decode_halt : decode [0b0000000000000000#16] = .ok (.halt, []) := by decide
theorem test_decode_lodd : decode [0b0000000000000001#16, 100#16] = .ok (.lodd 100#16, []) := by decide
theorem test_decode_stod : decode [0b0000000000000010#16, 100#16] = .ok (.stod 100#16, []) := by decide
theorem test_decode_addd : decode [0b0000000000000011#16, 11#16] = .ok (.addd 11#16, []) := by decide
theorem test_decode_subd : decode [0b0000000000000100#16, 0x66#16] = .ok (.subd 102#16, []) := by decide
theorem test_decode_jpos : decode [0b0000000000000101#16, 12#16, 0#16] = .ok (.jpos 12#16, [0#16]) := by decide
theorem test_decode_stodl : decode [0b0000000000000110#16, 50#16] = .ok (.stodl 50#16, []) := by decide
theorem test_decode_loco : decode [0b0000000000000111#16, 0xFFFD#16] = .ok (.loco 0xFFFD#16, []) := by decide
theorem test_decode_jump : decode [0b0000000000001000#16, 2#16] = .ok (.jump 2#16, []) := by decide
theorem test_decode_jzer : decode [0b0000000000001001#16, 0xFFFF#16] = .ok (.jzer 0xFFFF#16, []) := by decide
theorem test_decode_jneg : decode [0b0000000000001010#16, 6#16] = .ok (.jneg 6#16, []) := by decide
theorem test_decode_addl : decode [0b0000000000001011#16, 7#16] = .ok (.addl, [7#16]) := by decide
theorem test_decode_insp : decode [0b0000000000001100#16] = .ok (.insp, []) := by decide
theorem test_decode_push : decode [0b0000000000001101#16] = .ok (.push, []) := by decide
theorem test_decode_pop : decode [0b0000000000001110#16] = .ok (.pop, []) := by decide
theorem test_decode_ins : decode [0b0000000000001111#16] = .ok (.ins, []) := by decide
theorem test_decode_out : decode [0b0000000000010000#16] = .ok (.out, []) := by decide

/-- A refusal names its reason: no word at all, an illegal word, a Format A opcode with nothing after it. -/
theorem test_decode_errors : decode [] = .error .noOpcodeWord ∧ decode [0x0011#16, 5#16] = .error (.illegalOpcode 0x0011#16) ∧
    decode [0x0001#16] = .error (.noOperandWord .lodd) := by decide

/-- The table's numbering: the operand word is bits 31..16, and is 0 above `nbits`. -/
theorem test_decode_table_word : decodeTableWord 32 0x00640001 = some (.lodd 100#16) ∧ decodeTableWord 16 0x00640001 = some (.lodd 0#16) ∧
    decodeTableWord 16 0x000C = some .insp ∧ decodeTableWord 16 0x0011 = none := by decide

/-! ### Data path primitives (L2.1) -/

theorem test_mask16 : (mask16 (-3)).toNat = 65533 ∧ (mask16 65536).toNat = 0 ∧ (mask16 70000).toNat = 4464 ∧
    (mask16 (-65537)).toNat = 65535 := by decide

theorem test_wrap : wrap .hw16 32768 = -32768 ∧ wrap .hw16 65536 = 0 ∧ wrap .hw16 (-32769) = 32767 ∧ wrap .hw16 65533 = -3 ∧
    wrap .refUnbounded 65536 = 65536 := by decide

theorem test_or : aluOr 6 3#16 = 7 ∧ aluOr (-3) 2#16 = -1 ∧ aluOr (-3) 1#16 = -3 ∧ aluOr (-32768) 0x8000#16 = -32768 ∧
    aluOr 65535 1#16 = 65535 := by decide

/-! ### One step of each instruction, at p = 10 -/

/-- DV1, DV2 in both modes, DV3. -/
theorem test_lodd_DV1_DV2_DV3 :
    mirrorAfter (poke 100 5#16 (put 10 [1#16, 100#16] fresh)) = some (100, 5) ∧
    acAfter (poke 100 0x8000#16 (put 10 [1#16, 100#16] fresh)) = some (-32768, false, true) ∧
    acAfter (poke 100 0x8000#16 (put 10 [1#16, 100#16] freshRef)) = some (32768, false, false) ∧
    acAfter (put 10 [1#16, 100#16] (withAC 9 fresh)) = some (0, true, false) ∧
    pcAfter (put 10 [1#16, 100#16] fresh) = some 12 := by decide

/-- DV4, DV5, DV30. -/
theorem test_lodd_faults_DV4_DV5_DV30 :
    faultAfter (put 10 [1#16, 4096#16] (withAC 9 fresh)) = some (some (.addressFault 4096), 11, 9, 4095) ∧
    mirrorAfter (put 10 [1#16, 4096#16] fresh) = some (11, 0x1000) ∧
    faultAfter (put 4095 [1#16] fresh) = some (some (.addressFault 4096), 4096, 0, 4095) ∧
    mirrorAfter (put 4095 [1#16] fresh) = some (4095, 1) ∧
    faultAfter (put 10 [1#16, 0xFFFF#16] fresh) = some (some (.addressFault 65535), 11, 0, 4095) := by decide

/-- DV7, DV8, DV10. -/
theorem test_stod_DV7_DV8_DV10 :
    wordAfter 100 (put 10 [2#16, 100#16] (withAC (-3) fresh)) = some 0xFFFD ∧
    wordAfter 100 (poke 100 9#16 (put 10 [2#16, 100#16] (withAC 65536 freshRef))) = some 0 ∧
    acAfter (put 10 [2#16, 100#16] (withAC 65536 freshRef)) = some (65536, false, false) ∧
    acAfter (put 10 [2#16, 100#16] (withAC (-2) fresh)) = some (-2, false, true) := by decide

/-- DV9. -/
theorem test_stod_fault_DV9 :
    faultAfter (put 10 [2#16, 0xFFFF#16] (withAC 5 fresh)) = some (some (.addressFault 65535), 11, 5, 4095) ∧
    (ran (put 10 [2#16, 0xFFFF#16] (withAC 5 fresh))).map (·.mem) = some (put 10 [2#16, 0xFFFF#16] fresh).mem := by decide

/-- DV12 and DV13 in both modes, DV14. -/
theorem test_addd_DV12_DV13_DV14 :
    acAfter (poke 100 1#16 (put 10 [3#16, 100#16] (withAC 32767 fresh))) = some (-32768, false, true) ∧
    acAfter (poke 100 1#16 (put 10 [3#16, 100#16] (withAC 32767 freshRef))) = some (32768, false, false) ∧
    acAfter (poke 100 0xFFFF#16 (put 10 [3#16, 100#16] (withAC 1 fresh))) = some (0, true, false) ∧
    acAfter (poke 100 0xFFFF#16 (put 10 [3#16, 100#16] (withAC 1 freshRef))) = some (65536, false, false) ∧
    acAfter (poke 100 1#16 (put 10 [3#16, 100#16] (withAC (-1) fresh))) = some (0, true, false) := by decide

/-- DV15, DV18 and DV19 in both modes. -/
theorem test_subd_DV15_DV18_DV19 :
    acAfter (poke 100 7#16 (put 10 [4#16, 100#16] (withAC 5 fresh))) = some (-2, false, true) ∧
    acAfter (poke 100 1#16 (put 10 [4#16, 100#16] (withAC (-32768) fresh))) = some (32767, false, false) ∧
    acAfter (poke 100 1#16 (put 10 [4#16, 100#16] (withAC (-32768) freshRef))) = some (-32769, false, true) ∧
    acAfter (poke 100 0xFFFF#16 (put 10 [4#16, 100#16] fresh)) = some (1, false, false) ∧
    acAfter (poke 100 0xFFFF#16 (put 10 [4#16, 100#16] freshRef)) = some (-65535, false, true) := by decide

/-- DV20, DV21 in both modes, DV22, DV23. -/
theorem test_stodl_DV20_to_DV23 :
    wordAfter 100 (poke 100 3#16 (put 10 [6#16, 100#16] (withAC 6 fresh))) = some 3 ∧
    acAfter (poke 100 3#16 (put 10 [6#16, 100#16] (withAC 6 fresh))) = some (7, false, false) ∧
    acAfter (poke 100 0x8000#16 (put 10 [6#16, 100#16] (withAC 1 fresh))) = some (-32767, false, true) ∧
    acAfter (poke 100 0x8000#16 (put 10 [6#16, 100#16] (withAC 1 freshRef))) = some (32769, false, false) ∧
    acAfter (poke 100 2#16 (put 10 [6#16, 100#16] (withAC (-3) fresh))) = some (-1, false, true) ∧
    acAfter (poke 100 1#16 (put 10 [6#16, 100#16] (withAC (-3) freshRef))) = some (-3, false, true) := by decide

/-- DV25, DV26 in both modes, DV28. -/
theorem test_loco_DV25_DV26_DV28 :
    acAfter (put 10 [7#16, 0#16] (withAC 9 fresh)) = some (0, true, false) ∧
    mirrorAfter (put 10 [7#16, 0#16] (withAC 9 fresh)) = some (11, 0) ∧
    acAfter (put 10 [7#16, 0xFFFD#16] fresh) = some (-3, false, true) ∧
    acAfter (put 10 [7#16, 0xFFFD#16] freshRef) = some (65533, false, false) ∧
    acAfter (put 10 [7#16, 0x8000#16] fresh) = some (-32768, false, true) := by decide

/-- DV29. -/
theorem test_loco_fault_DV29 :
    faultAfter (put 4095 [7#16] (withAC 9 fresh)) = some (some (.addressFault 4096), 4096, 9, 4095) := by decide

/-- JP1, JP2, JP3. -/
theorem test_jpos_JP1_JP2_JP3 : pcAfter (put 10 [5#16, 20#16] (withAC 1 fresh)) = some 20 ∧
    pcAfter (put 10 [5#16, 20#16] (withAC 0 fresh)) = some 12 ∧ pcAfter (put 10 [5#16, 20#16] (withAC (-1) fresh)) = some 12 := by
  decide

/-- JP4, JP12, JP13. -/
theorem test_jump_JP4_JP12_JP13 : pcAfter (put 10 [8#16, 20#16] (withAC 0 fresh)) = some 20 ∧
    mirrorAfter (put 10 [8#16, 20#16] fresh) = some (11, 20) ∧ pcAfter (put 10 [8#16, 0xFFFF#16] fresh) = some 65535 ∧
    faultAfter (put 4095 [8#16] fresh) = some (some (.addressFault 4096), 4096, 0, 4095) := by decide

/-- JP5, JP6, JP7. -/
theorem test_jzer_JP5_JP6_JP7 : pcAfter (put 10 [9#16, 20#16] (withAC 0 fresh)) = some 20 ∧
    pcAfter (put 10 [9#16, 20#16] (withAC 1 fresh)) = some 12 ∧ pcAfter (put 10 [9#16, 20#16] (withAC (-1) fresh)) = some 12 := by
  decide

/-- JP8, JP9, JP10. -/
theorem test_jneg_JP8_JP9_JP10 : pcAfter (put 10 [10#16, 20#16] (withAC (-1) fresh)) = some 20 ∧
    pcAfter (put 10 [10#16, 20#16] (withAC 1 fresh)) = some 12 ∧ pcAfter (put 10 [10#16, 20#16] (withAC 0 fresh)) = some 12 := by
  decide

/-- S10, and the free slot of S17. -/
theorem test_addl_S10_S17 : acAfter (poke 4095 7#16 (put 10 [11#16] (withAC 1 fresh))) = some (8, false, false) ∧
    mirrorAfter (poke 4095 7#16 (put 10 [11#16] (withAC 1 fresh))) = some (4095, 7) ∧
    acAfter (withSP 4094 (poke 4095 5#16 (put 10 [11#16] (withAC 5 fresh)))) = some (5, false, false) := by decide

/-- S11, S12. -/
theorem test_addl_faults_S11_S12 :
    faultAfter (withSP (-1) (put 10 [11#16] (withAC 9 fresh))) = some (some (.addressFault (-1)), 11, 9, -1) ∧
    faultAfter (withSP 4096 (put 10 [11#16] fresh)) = some (some (.addressFault 4096), 11, 0, 4096) := by decide

/-- S8, S9, S14 in both modes, S18. -/
theorem test_insp_S8_S9_S14_S18 : spAfter (withSP (-1) (put 10 [12#16] fresh)) = some (0, true, false) ∧
    spAfter (put 10 [12#16] fresh) = some (4096, false, false) ∧
    spAfter (withSP 32767 (put 10 [12#16] fresh)) = some (-32768, false, true) ∧
    spAfter (withSP 32767 (put 10 [12#16] freshRef)) = some (32768, false, false) ∧
    spAfter (withSP 4094 (put 10 [12#16] (withAC (-5) fresh))) = some (4095, false, false) := by decide

/-- S1, and the store of S16. -/
theorem test_push_S1_S16 : spAfter (put 10 [13#16] (withAC 10 fresh)) = some (4094, false, false) ∧
    mirrorAfter (put 10 [13#16] (withAC 10 fresh)) = some (4095, 10) ∧
    wordAfter 4095 (put 10 [13#16] (withAC (-1) fresh)) = some 0xFFFF := by decide

/-- S5, S6, S13. -/
theorem test_push_faults_S5_S6_S13 :
    faultAfter (withSP 0 (put 10 [13#16] (withAC 7 fresh))) = some (some (.stackOverflow (-1)), 11, 7, -1) ∧
    wordAfter 0 (withSP 0 (put 10 [13#16] (withAC 7 fresh))) = some 7 ∧
    faultAfter (withSP (-1) (put 10 [13#16] (withAC 7 fresh))) = some (some (.addressFault (-1)), 11, 7, -1) ∧
    faultAfter (withSP 4096 (put 10 [13#16] fresh)) = some (some (.addressFault 4096), 11, 0, 4096) := by decide

/-- S2, S7, and the POP of S16 in both modes. -/
theorem test_pop_S2_S7_S16 : spAfter (withSP 4094 (poke 4095 10#16 (put 10 [14#16] fresh))) = some (4095, false, false) ∧
    acAfter (withSP (-1) (poke 0 7#16 (put 10 [14#16] fresh))) = some (7, false, false) ∧
    acAfter (withSP 4094 (poke 4095 0xFFFF#16 (put 10 [14#16] fresh))) = some (-1, false, true) ∧
    acAfter (withSP 4094 (poke 4095 0xFFFF#16 (put 10 [14#16] freshRef))) = some (65535, false, false) := by decide

/-- S3, S4, S15 in both modes. -/
theorem test_pop_faults_S3_S4_S15 :
    faultAfter (put 10 [14#16] fresh) = some (some (.stackUnderflow 4096), 11, 0, 4096) ∧
    mirrorAfter (put 10 [14#16] fresh) = some (10, 14) ∧
    faultAfter (withSP 4096 (put 10 [14#16] (withAC 5 fresh))) = some (some (.stackUnderflow 4097), 11, 5, 4097) ∧
    faultAfter (withSP 32767 (put 10 [14#16] fresh)) = some (some (.addressFault (-32768)), 11, 0, -32768) ∧
    faultAfter (withSP 32767 (put 10 [14#16] freshRef)) = some (some (.stackUnderflow 32768), 11, 0, 32768) := by decide

/-- SY1. -/
theorem test_halt_SY1 : ran (put 10 [0#16] (withAC 5 fresh)) =
    some { put 10 [0#16] (withAC 5 fresh) with run := false, pc := 11#16, mar := 10#16 } := by decide

/-- SY3: nothing changes but PC, IR, MAR and MBR. -/
theorem test_ins_SY3 : ran (put 10 [15#16] (withAC 5 fresh)) =
    some { put 10 [15#16] (withAC 5 fresh) with pc := 11#16, ir := 15#16, mar := 10#16, mbr := 15#16 } := by decide

/-- SY4. -/
theorem test_out_SY4 : ran (put 10 [16#16] (withAC (-5) fresh)) =
    some { put 10 [16#16] (withAC (-5) fresh) with pc := 11#16, ir := 16#16, mar := 10#16, mbr := 16#16 } := by decide

/-! ### Decode, cycle and host operations -/

/-- CY1, CY2, CY3: the whole word is decoded and recorded. -/
theorem test_illegal_CY1_CY2_CY3 :
    faultAfter (put 0 [0x0011#16] fresh) = some (some (.illegalOpcode 0x0011#16), 1, 0, 4095) ∧
    faultAfter (put 0 [0x0101#16] fresh) = some (some (.illegalOpcode 0x0101#16), 1, 0, 4095) ∧
    faultAfter (put 0 [0x0100#16] fresh) = some (some (.illegalOpcode 0x0100#16), 1, 0, 4095) := by decide

/-- CY4, CY5: an illegal word at 4095 fetches no operand. -/
theorem test_illegal_CY4_CY5 :
    faultAfter (put 0 [0xFFFF#16] fresh) = some (some (.illegalOpcode 0xFFFF#16), 1, 0, 4095) ∧
    faultAfter (put 4095 [0x0011#16] fresh) = some (some (.illegalOpcode 0x0011#16), 4096, 0, 4095) := by decide

/-- CY6, CY8 and SY2: a step off the end changes RUN alone, and a step while Halted nothing. -/
theorem test_stopped_CY6_CY8_SY2 : ran (put 4096 [] fresh) = some { put 4096 [] fresh with run := false } ∧
    ran (State.constructed Config.default) = some (State.constructed Config.default) ∧
    (ran (put 4096 [] fresh)).map State.stepResult = some .stopped := by decide

/-- CY9 to CY13. -/
theorem test_peek_CY9_to_CY13 : peekNextInstructionName (put 0 [7#16] fresh) = "LOCO" ∧ peekNextInstructionName fresh = "HALT" ∧
    peekNextInstructionName (put 0 [0x0011#16] fresh) = "none" ∧ peekNextInstructionName (put 4096 [] fresh) = "none" ∧
    peekNextInstructionName { put 0 [8#16] fresh with run := false } = "JUMP" := by decide

/-- CY14: after a fault the engine still runs, and the record outlives the next step. -/
theorem test_after_fault_CY14 : (ran (put 0 [14#16] fresh)).map (fun t => (t.run, t.faultRecord)) =
      some (true, some (.stackUnderflow 4096)) ∧
    ((ran (put 0 [14#16] fresh)).bind ran).map (fun t => (t.run, t.raised, t.faultRecord, t.pc.toNat)) =
      some (false, none, some (.stackUnderflow 4096), 2) := by decide

/-- M8. -/
theorem test_mirror_M8 : mirrorAfter (withSP (-1) (put 0 [13#16] fresh)) = some (0, 13) := by decide

/-- RL2: each integer is masked; RL4: reset keeps memory and clears the record. -/
theorem test_load_RL2_RL4 : loadedMemory [-3, 65536, 70000] = [(0, 0xFFFD#16), (2, 4464#16)] ∧
    (hostReset { poke 7 9#16 fresh with ac := 5, run := false, faultRecord := some (.stackOverflow (-1)) }) = poke 7 9#16 fresh := by
  decide

/-- RL3. -/
theorem test_load_RL3 : hostLoad (List.replicate 4097 0) fresh = .refused (.imageTooLong 4097) := by
  rw [hostLoad, imageWf, List.length_replicate]
  rfl

/-- The placed instruction is the one the next step runs, a halted engine's too. -/
theorem test_placed : (ran (fresh.withFetchWord 32 0x00640007)).map (·.ac) = some 100 ∧
    (ran ((State.constructed Config.default).withFetchWord 32 0x00640007)).map (·.ac) = some 100 ∧
    (ran ((put 4095 [] fresh).withFetchWord 32 0x00640007)).map (·.ac) = some 100 := by decide

/-! ### Witnesses: concrete states and operands that meet the hypotheses of the obligations, at the ends of their ranges -/

/-- A running core that has just fetched nothing yet meets the invariant whenever its memory, AC, SP and MAR do. -/
theorem inv_of_quiet {s : State} (hm : s.mem.wf = true) (ha : InMode s.config.wordMode s.ac) (hs : InMode s.config.wordMode s.sp)
    (hf : s.config.wordMode = .refUnbounded → -1 ≤ s.sp) (hr : s.mar.toNat ≤ 4095) (hz : ¬ (s.flagZ = true ∧ s.flagN = true))
    (h1 : s.raised = none) (h2 : s.faultRecord = none) : s.Inv where
  memWf := hm
  acRange := ha
  spRange := hs
  spFloor := hf
  marRange := hr
  flagsExclusive := hz
  haltedQuiet _ := h1
  raisedRecorded h := by rw [h1] at h; cases h
  raisedValid f h := by rw [h1] at h; cases h
  recordValid f h := by rw [h2] at h; cases h

theorem witness_IllegalWordsAreRefused : (0x0100#16 : Word).extractLsb' 8 8 ≠ 0#8 ∧ (0xFF00#16 : Word).extractLsb' 8 8 ≠ 0#8 := by
  decide

theorem witness_AccessFaultsOutsideMemory : (0 ≤ (0 : Int) ∧ (0 : Int) ≤ 4095) ∧ (0 ≤ (4095 : Int) ∧ (4095 : Int) ≤ 4095) ∧
    ((-1 : Int) < 0 ∨ 4096 ≤ (-1 : Int)) ∧ ((4096 : Int) < 0 ∨ 4096 ≤ (4096 : Int)) := by decide

theorem witness_MemReadReturnsLatestWrite : fresh.mem.wf = true ∧
    (∃ w t, memWrite 4095 (-3) fresh = .done w t) ∧ 0 ≤ (0 : Int) ∧ (4095 : Int) ≤ 4095 := by
  exact ⟨by decide, ⟨_, _, rfl⟩, by decide, by decide⟩

theorem witness_CanonicalMemoriesAreEqual : Memory.wf [(0, 1#16), (4095, 2#16)] = true ∧
    Memory.wf (Memory.write (Memory.write [] 4095 2#16) 0 1#16) = true ∧
    ∀ a, Memory.read [(0, 1#16), (4095, 2#16)] a = Memory.read (Memory.write (Memory.write [] 4095 2#16) 0 1#16) a :=
  ⟨by decide, by decide, fun _ => rfl⟩

/-- The operand fetch clause, for the ten Format A opcodes, each alone in the last word of memory. -/
theorem witness_OperandFetchFaults : ∀ op ∈ [Opcode.lodd, .stod, .addd, .subd, .jpos, .stodl, .loco, .jump, .jzer, .jneg],
    Fetches op (put 4095 [op.word] fresh) ∧ (put 4095 [op.word] fresh).pc.toNat = 4095 := by
  intro op _
  cases op <;> exact ⟨⟨rfl, by decide, by decide⟩, by decide⟩

/-- The data access clauses of LODD, STOD, ADDD, SUBD and STODL: the first and last address of each. -/
theorem witness_direct_addresses : 4096 ≤ (4096#16 : Word).toNat ∧ 4096 ≤ (0xFFFF#16 : Word).toNat ∧ (0#16 : Word).toNat ≤ 4095 ∧
    (4095#16 : Word).toNat ≤ 4095 ∧ fresh.mem.wf = true := by decide

/-- LOCO's clauses: a core of each width. -/
theorem witness_LocoLoadsConstant : fresh.config.wordMode = .hw16 ∧ freshRef.config.wordMode = .refUnbounded := by decide

theorem witness_AddlAddsWordAtSp : (0 ≤ (withSP 0 fresh).sp ∧ (withSP 0 fresh).sp ≤ 4095) ∧ (0 ≤ fresh.sp ∧ fresh.sp ≤ 4095) ∧
    ((withSP (-1) fresh).sp < 0 ∨ 4096 ≤ (withSP (-1) fresh).sp) ∧ ((withSP 4096 fresh).sp < 0 ∨ 4096 ≤ (withSP 4096 fresh).sp) := by
  decide

theorem witness_PushStoresAndDecrements : fresh.mem.wf = true ∧ (1 ≤ (withSP 1 fresh).sp ∧ (withSP 1 fresh).sp ≤ 4095) ∧
    (1 ≤ fresh.sp ∧ fresh.sp ≤ 4095) ∧ (withSP 0 fresh).sp = 0 ∧ (withSP 0 fresh).mem.wf = true ∧
    ((withSP (-1) fresh).sp < 0 ∨ 4096 ≤ (withSP (-1) fresh).sp) ∧ ((withSP 4096 fresh).sp < 0 ∨ 4096 ≤ (withSP 4096 fresh).sp) := by
  decide

theorem witness_PopIncrementsAndLoads :
    (0 : Int) = wrap (withSP (-1) fresh).config.wordMode ((withSP (-1) fresh).sp + 1) ∧
    (4095 : Int) = wrap (withSP 4094 fresh).config.wordMode ((withSP 4094 fresh).sp + 1) ∧
    (4096 : Int) = wrap fresh.config.wordMode (fresh.sp + 1) ∧
    (-32768 : Int) = wrap (withSP 32767 fresh).config.wordMode ((withSP 32767 fresh).sp + 1) ∧
    (-1 : Int) = wrap (withSP (-2) fresh).config.wordMode ((withSP (-2) fresh).sp + 1) := by decide

theorem witness_HaltStopsTheEngine : Fetches .halt fresh ∧ Fetches .halt (put 4095 [0#16] fresh) :=
  ⟨⟨rfl, by decide, by decide⟩, ⟨rfl, by decide, by decide⟩⟩

theorem witness_InsAndOutDoNothing : Fetches .ins (put 0 [15#16] fresh) ∧ Fetches .out (put 4095 [16#16] fresh) :=
  ⟨⟨rfl, by decide, by decide⟩, ⟨rfl, by decide, by decide⟩⟩

theorem witness_AccumulatorWritersFrame : (Instr.addl).opcode = .addl ∧ (Instr.lodd 4095#16).opcode = .lodd ∧
    (Instr.addd 4095#16).opcode = .addd ∧ (Instr.subd 0#16).opcode = .subd ∧ (Instr.stodl 4096#16).opcode = .stodl ∧
    (Instr.loco 5#16).opcode = .loco ∧ (∃ t, exec .addl fresh = .next t) ∧ (∃ t, exec (.lodd 4095#16) fresh = .next t) ∧
    (∃ t, exec (.addd 4095#16) fresh = .next t) ∧ (∃ t, exec (.subd 0#16) fresh = .next t) ∧
    (∃ t, exec (.stodl 4096#16) fresh = .next t) ∧ ∃ t, exec (.loco 5#16) fresh = .next t :=
  ⟨rfl, rfl, rfl, rfl, rfl, rfl, ⟨_, rfl⟩, ⟨_, rfl⟩, ⟨_, rfl⟩, ⟨_, rfl⟩, ⟨_, rfl⟩, ⟨_, rfl⟩⟩

theorem witness_StoringInstructionsFrame : fresh.mem.wf = true ∧ (∃ t, exec (.stod 4095#16) fresh = .next t) ∧
    (∃ t, exec (.stod 4096#16) fresh = .next t) ∧ ((4094 : Nat) : Int) ≠ dataAddress 4095#16 ∧
    (∃ t, exec .push fresh = .next t) ∧ (∃ t, exec .push (withSP 0 fresh) = .next t) ∧ ((4094 : Nat) : Int) ≠ fresh.sp :=
  ⟨rfl, ⟨_, rfl⟩, ⟨_, rfl⟩, by decide, ⟨_, rfl⟩, ⟨_, rfl⟩, by decide⟩

theorem witness_StackPointerMoversFrame : (∃ t, exec .insp (withSP 32767 fresh) = .next t) ∧ (∃ t, exec .pop fresh = .next t) ∧
    ∃ t, exec .pop (withSP 4094 fresh) = .next t :=
  ⟨⟨_, rfl⟩, ⟨_, rfl⟩, ⟨_, rfl⟩⟩

theorem witness_ControlInstructionsFrame : (∃ t, exec (.jpos 20#16) fresh = .next t) ∧ (∃ t, exec (.jump 4096#16) fresh = .next t) ∧
    (∃ t, exec (.jzer 20#16) fresh = .next t) ∧ (∃ t, exec (.jneg 20#16) fresh = .next t) ∧ (∃ t, exec .halt fresh = .next t) ∧
    (∃ t, exec .ins fresh = .next t) ∧ ∃ t, exec .out fresh = .next t :=
  ⟨⟨_, rfl⟩, ⟨_, rfl⟩, ⟨_, rfl⟩, ⟨_, rfl⟩, ⟨_, rfl⟩, ⟨_, rfl⟩, ⟨_, rfl⟩⟩

/-- A two-word instruction in the last two words of memory, and a one-word instruction in the last one. -/
theorem witness_StepRunsDecodedInstruction :
    ((put 4094 [1#16, 100#16] fresh).run = true ∧ (put 4094 [1#16, 100#16] fresh).pc.toNat + (encode (.lodd 100#16)).length ≤ 4096 ∧
      decode [(put 4094 [1#16, 100#16] fresh).mem.read 4094, (put 4094 [1#16, 100#16] fresh).mem.read 4095] =
        .ok (.lodd 100#16, [])) ∧
    (put 4095 [12#16] fresh).pc.toNat + (encode .insp).length ≤ 4096 ∧
      decode [(put 4095 [12#16] fresh).mem.read 4095, (put 4095 [12#16] fresh).mem.read 4096] = .ok (.insp, [0#16]) := by decide

theorem witness_HaltedStepDoesNothing : (State.constructed Config.default).run = false ∧
    { fresh with run := false, raised := some (.stackOverflow (-1)) }.run = false ∧ (State.constructed Config.default).Inv :=
  ⟨rfl, rfl, inv_of_quiet rfl (by decide) (by decide) (by decide) (by decide) (by decide) rfl rfl⟩

theorem witness_OffEndStopsCleanly : (put 4096 [] fresh).run = true ∧ 4096 ≤ (put 4096 [] fresh).pc.toNat ∧
    4096 ≤ (put 65535 [] fresh).pc.toNat := by decide

theorem witness_IrHoldsFetchedOpcode : (∃ t, step (put 4095 [0x0011#16] fresh) = .next t) ∧
    (put 4095 [0x0011#16] fresh).pc.toNat ≤ 4095 ∧ (∃ t, step (put 4096 [] fresh) = .next t) ∧ 4096 ≤ (put 4096 [] fresh).pc.toNat ∧
    ∃ t, step (State.constructed Config.default) = .next t :=
  ⟨⟨_, rfl⟩, by decide, ⟨_, rfl⟩, by decide, ⟨_, rfl⟩⟩

theorem witness_PcAdvancesPastInstruction :
    (Fetches .pop (put 4095 [14#16] fresh) ∧ ∃ t, step (put 4095 [14#16] fresh) = .next t ∧ t.raised ≠ none) ∧
    (Fetches .insp (put 4095 [12#16] fresh) ∧ ∃ t, step (put 4095 [12#16] fresh) = .next t ∧ t.raised = none) ∧
    (Fetches .jump (put 4094 [8#16, 0xFFFF#16] fresh) ∧ ∃ t, step (put 4094 [8#16, 0xFFFF#16] fresh) = .next t ∧ t.raised = none) ∧
    Fetches .loco (put 4094 [7#16, 5#16] fresh) ∧ ∃ t, step (put 4094 [7#16, 5#16] fresh) = .next t ∧ t.raised = none :=
  ⟨⟨⟨rfl, by decide, by decide⟩, _, rfl, by decide⟩, ⟨⟨rfl, by decide, by decide⟩, _, rfl, by decide⟩,
    ⟨⟨rfl, by decide, by decide⟩, _, rfl, by decide⟩, ⟨⟨rfl, by decide, by decide⟩, _, rfl, by decide⟩⟩

/-- One step of each result. -/
theorem witness_StepResultClassifies : (∃ t, step fresh = .next t ∧ t.stepResult = .stopped) ∧
    (∃ t, step (put 0 [12#16] fresh) = .next t ∧ t.stepResult = .continued) ∧
    ∃ t, step (put 0 [14#16] fresh) = .next t ∧ t.stepResult = .raised (.stackUnderflow 4096) :=
  ⟨⟨_, rfl, by decide⟩, ⟨_, rfl, by decide⟩, ⟨_, rfl, by decide⟩⟩

theorem witness_FaultRecordIsSticky : (∃ t, step (put 0 [14#16] fresh) = .next t ∧ t.raised ≠ none) ∧
    (∃ t, step { put 0 [14#16] fresh with faultRecord := some (.addressFault (-1)) } = .next t ∧
      t.faultRecord = some (.addressFault (-1))) ∧ ∃ t, hostLoad [7, 5] fresh = .next t :=
  ⟨⟨_, rfl, by decide⟩, ⟨_, rfl, by decide⟩, ⟨_, rfl⟩⟩

theorem witness_FaultLeavesEngineRunning : ∃ t, step (put 4095 [14#16] fresh) = .next t ∧ t.raised ≠ none :=
  ⟨_, rfl, by decide⟩

theorem witness_RunIsClearedByHaltAndOffEndOnly : (∃ t, step fresh = .next t ∧ t.run = false) ∧
    (∃ t, step (put 4096 [] fresh) = .next t ∧ t.run = false) ∧ (∃ t, step (put 0 [15#16] fresh) = .next t ∧ t.run = true) ∧
    ∃ t, hostLoad [] (State.constructed Config.default) = .next t :=
  ⟨⟨_, rfl, by decide⟩, ⟨_, rfl, by decide⟩, ⟨_, rfl, by decide⟩, ⟨_, rfl⟩⟩

theorem witness_MemoryIsWrittenByStodAndPushOnly :
    (∃ t, step (put 10 [2#16, 4095#16] (withAC 5 fresh)) = .next t ∧
      t.mem.read 4095 ≠ (put 10 [2#16, 4095#16] (withAC 5 fresh)).mem.read 4095) ∧
    ∃ t, step (withSP 0 (put 10 [13#16] (withAC 5 fresh))) = .next t ∧
      t.mem.read 0 ≠ (withSP 0 (put 10 [13#16] (withAC 5 fresh))).mem.read 0 :=
  ⟨⟨_, rfl, by decide⟩, ⟨_, rfl, by decide⟩⟩

/-- A step that writes AC, one that writes SP's flags, one that faults, and one that writes neither. -/
theorem witness_FlagsFollowAccessTable :
    (Fetches .loco (put 0 [7#16, 0#16] fresh) ∧ ∃ t, step (put 0 [7#16, 0#16] fresh) = .next t ∧ t.raised = none) ∧
    (Fetches .insp (put 0 [12#16] fresh) ∧ ∃ t, step (put 0 [12#16] fresh) = .next t ∧ t.raised = none) ∧
    (Fetches .pop (put 0 [14#16] fresh) ∧ ∃ t, step (put 0 [14#16] fresh) = .next t ∧ t.raised ≠ none) ∧
    Fetches .push (put 0 [13#16] fresh) ∧ ∃ t, step (put 0 [13#16] fresh) = .next t ∧ t.raised = none :=
  ⟨⟨⟨rfl, by decide, by decide⟩, _, rfl, by decide⟩, ⟨⟨rfl, by decide, by decide⟩, _, rfl, by decide⟩,
    ⟨⟨rfl, by decide, by decide⟩, _, rfl, by decide⟩, ⟨⟨rfl, by decide, by decide⟩, _, rfl, by decide⟩⟩

theorem witness_IllegalOpcodeFaults : ((put 4095 [0x0011#16] fresh).run = true ∧ (put 4095 [0x0011#16] fresh).pc.toNat ≤ 4095 ∧
      0x0011 ≤ ((put 4095 [0x0011#16] fresh).mem.read (put 4095 [0x0011#16] fresh).pc.toNat).toNat) ∧
    (0x0011 ≤ ((put 0 [0xFFFF#16] fresh).mem.read 0).toNat) ∧
    ∃ t, step (put 0 [0xFFFF#16] fresh) = .next t ∧ t.raised = some (.illegalOpcode 0xFFFF#16) :=
  ⟨by decide, by decide, ⟨_, rfl, by decide⟩⟩

/-- The five points of R201, each with the step that raises the fault there. -/
theorem witness_AddressFaultExactlyWhere :
    (Fetches .loco (put 4095 [7#16] fresh) ∧ ∃ t, step (put 4095 [7#16] fresh) = .next t ∧ t.raised = some (.addressFault 4096)) ∧
    (Fetches .stod (put 4094 [2#16, 4096#16] fresh) ∧
      ∃ t, step (put 4094 [2#16, 4096#16] fresh) = .next t ∧ t.raised = some (.addressFault 4096)) ∧
    (Fetches .addl (withSP (-1) (put 4095 [11#16] fresh)) ∧
      ∃ t, step (withSP (-1) (put 4095 [11#16] fresh)) = .next t ∧ t.raised = some (.addressFault (-1))) ∧
    (Fetches .push (withSP 4096 (put 0 [13#16] fresh)) ∧
      ∃ t, step (withSP 4096 (put 0 [13#16] fresh)) = .next t ∧ t.raised = some (.addressFault 4096)) ∧
    Fetches .pop (withSP 32767 (put 0 [14#16] fresh)) ∧ (withSP 32767 (put 0 [14#16] fresh)).Inv ∧ wrap .hw16 (32767 + 1) < 0 ∧
      ∃ t, step (withSP 32767 (put 0 [14#16] fresh)) = .next t ∧ t.raised = some (.addressFault (-32768)) :=
  ⟨⟨⟨rfl, by decide, by decide⟩, _, rfl, by decide⟩, ⟨⟨rfl, by decide, by decide⟩, _, rfl, by decide⟩,
    ⟨⟨rfl, by decide, by decide⟩, _, rfl, by decide⟩, ⟨⟨rfl, by decide, by decide⟩, _, rfl, by decide⟩,
    ⟨rfl, by decide, by decide⟩,
    inv_of_quiet (by decide) (by decide) (by decide) (by decide) (by decide) (by decide) rfl rfl, by decide, _, rfl, by decide⟩

theorem witness_StackFaultsExactlyWhere :
    ((withSP 0 (put 10 [13#16] fresh)).mem.wf = true ∧
      ∃ t, step (withSP 0 (put 10 [13#16] fresh)) = .next t ∧ t.raised = some (.stackOverflow (-1))) ∧
    (put 10 [14#16] fresh).mem.wf = true ∧
      ∃ t, step (put 10 [14#16] fresh) = .next t ∧ t.raised = some (.stackUnderflow 4096) :=
  ⟨⟨by decide, _, rfl, by decide⟩, by decide, _, rfl, by decide⟩

/-- One faulting step for each row of R206, the state before it in the invariant. -/
theorem witness_FaultingStepLeavesTableState :
    ((put 0 [0x0011#16] fresh).Inv ∧ ∃ t, step (put 0 [0x0011#16] fresh) = .next t ∧ t.raised = some (.illegalOpcode 0x0011#16)) ∧
    ((put 4095 [7#16] fresh).Inv ∧ ∃ t, step (put 4095 [7#16] fresh) = .next t ∧ t.raised = some (.addressFault 4096)) ∧
    ((put 10 [1#16, 4096#16] fresh).Inv ∧
      ∃ t, step (put 10 [1#16, 4096#16] fresh) = .next t ∧ t.raised = some (.addressFault 4096)) ∧
    ((withSP (-1) (put 10 [11#16] freshRef)).Inv ∧
      ∃ t, step (withSP (-1) (put 10 [11#16] freshRef)) = .next t ∧ t.raised = some (.addressFault (-1))) ∧
    ((withSP 32767 (put 10 [14#16] fresh)).Inv ∧
      ∃ t, step (withSP 32767 (put 10 [14#16] fresh)) = .next t ∧ t.raised = some (.addressFault (-32768))) ∧
    ((withSP 0 (put 10 [13#16] fresh)).Inv ∧
      ∃ t, step (withSP 0 (put 10 [13#16] fresh)) = .next t ∧ t.raised = some (.stackOverflow (-1))) ∧
    (put 10 [14#16] fresh).Inv ∧ ∃ t, step (put 10 [14#16] fresh) = .next t ∧ t.raised = some (.stackUnderflow 4096) := by
  refine ⟨⟨?_, _, rfl, by decide⟩, ⟨?_, _, rfl, by decide⟩, ⟨?_, _, rfl, by decide⟩, ⟨?_, _, rfl, by decide⟩, ⟨?_, _, rfl, by decide⟩,
    ⟨?_, _, rfl, by decide⟩, ?_, _, rfl, by decide⟩ <;>
    exact inv_of_quiet (by decide) (by decide) (by decide) (by decide) (by decide) (by decide) rfl rfl

/-- Each clause at the end of its range. -/
theorem witness_FirstFaultInOrderIsRaised :
    (put 4096 [] fresh).run = true ∧ 4096 ≤ (put 4096 [] fresh).pc.toNat ∧
    0x0011 ≤ ((put 4095 [0x0011#16] fresh).mem.read 4095).toNat ∧
    (0x0001 ≤ ((put 4095 [1#16] fresh).mem.read 4095).toNat ∧ ((put 4095 [10#16] fresh).mem.read 4095).toNat ≤ 0x000A) ∧
    Fetches .push (withSP 4096 (put 4095 [13#16] fresh)) ∧ Fetches .push (withSP (-1) (put 4095 [13#16] fresh)) ∧
    Fetches .push (withSP 0 (put 4095 [13#16] fresh)) ∧ Fetches .pop (put 4095 [14#16] fresh) ∧
    4096 ≤ wrap fresh.config.wordMode (fresh.sp + 1) :=
  ⟨by decide, by decide, by decide, by decide, ⟨rfl, by decide, by decide⟩, ⟨rfl, by decide, by decide⟩,
    ⟨rfl, by decide, by decide⟩, ⟨rfl, by decide, by decide⟩, by decide⟩

/-- The reset state meets the invariant. -/
theorem witness_reset_inv : State.reset.Inv :=
  inv_of_quiet rfl (by decide) (by decide) (by decide) (by decide) (by decide) rfl rfl

theorem witness_StepKeepsInvariant : State.reset.Inv ∧ (∃ t, step State.reset = .next t) ∧ (put 4095 [14#16] freshFree).Inv ∧
    ∃ t, step (put 4095 [14#16] freshFree) = .next t :=
  ⟨witness_reset_inv, ⟨_, rfl⟩,
    inv_of_quiet (by decide) (by decide) (by decide) (by decide) (by decide) (by decide) rfl rfl, ⟨_, rfl⟩⟩

/-- A loaded program, one step into its run. -/
theorem witness_ReachableStatesMeetInvariant : ∃ t, Reachable t ∧ t.ac = 5 ∧ t.run = true :=
  ⟨_, .step (.load [7, 5] (.constructed Config.default) rfl) rfl, by decide, by decide⟩

theorem witness_SpStaysAboveFloor : (withSP (-1) (put 0 [12#16] freshRef)).Inv ∧
    (∃ t, step (withSP (-1) (put 0 [12#16] freshRef)) = .next t) ∧ -1 ≤ (withSP (-1) (put 0 [12#16] freshRef)).sp ∧
    freshRef.config.wordMode = .refUnbounded ∧ (withSP 0 (put 0 [13#16] fresh)).Inv ∧
    (∃ t, step (withSP 0 (put 0 [13#16] fresh)) = .next t) ∧ (withSP 0 fresh).sp ≠ 32767 :=
  ⟨inv_of_quiet (by decide) (by decide) (by decide) (by decide) (by decide) (by decide) rfl rfl, ⟨_, rfl⟩, by decide, rfl,
    inv_of_quiet (by decide) (by decide) (by decide) (by decide) (by decide) (by decide) rfl rfl, ⟨_, rfl⟩, by decide⟩

/-- Two cores that differ in MAR, MBR and the policy. -/
theorem witness_MarMbrDoNotAffectSteps :
    AgreeButMirror (put 0 [14#16] fresh) { put 0 [14#16] freshFree with mar := 9#16, mbr := 8#16, draws := 7 } ∧
    ∃ t, step (put 0 [14#16] fresh) = .next t :=
  ⟨⟨rfl, rfl, rfl, rfl, rfl, rfl, rfl, rfl, rfl, rfl, rfl⟩, ⟨_, rfl⟩⟩

/-- The two cores of L1 entry 2 before their first step. -/
theorem modesAgree_put (p : Nat) (words : List Word) : ModesAgree (put p words fresh) (put p words freshRef) :=
  ⟨⟨rfl, rfl, rfl, rfl, rfl, rfl, rfl, rfl, rfl, rfl, rfl, rfl, rfl, rfl⟩, rfl, rfl⟩

theorem witness_WordModesAgreeForOneStep : ModesAgree (put 0 [7#16, 0x7FFF#16] fresh) (put 0 [7#16, 0x7FFF#16] freshRef) ∧
    (put 0 [7#16, 0x7FFF#16] fresh).Inv ∧ (put 0 [7#16, 0x7FFF#16] fresh).sp ≠ 32767 ∧
    ∃ t, step (put 0 [7#16, 0x7FFF#16] freshRef) = .next t ∧ -32768 ≤ t.ac ∧ t.ac ≤ 32767 :=
  ⟨modesAgree_put _ _, inv_of_quiet (by decide) (by decide) (by decide) (by decide) (by decide) (by decide) rfl rfl, by decide,
    _, rfl, by decide⟩

/-- A run of two steps, LOCO 5 and HALT. -/
theorem witness_WordModesAgreeAlongRun : ModesAgree (put 0 [7#16, 5#16] fresh) (put 0 [7#16, 5#16] freshRef) ∧
    (put 0 [7#16, 5#16] fresh).Inv ∧
    ∀ k, k ≤ 2 → ∃ uk, runSteps k (put 0 [7#16, 5#16] freshRef) = .next uk ∧ -32768 ≤ uk.ac ∧ uk.ac ≤ 32767 ∧ uk.sp < 32767 := by
  refine ⟨modesAgree_put _ _, inv_of_quiet (by decide) (by decide) (by decide) (by decide) (by decide) (by decide) rfl rfl, ?_⟩
  intro k hk
  interval_cases k <;> exact ⟨_, rfl, by decide, by decide, by decide⟩

/-- STOD over the word after it, at the last place where three words fit (p = 4093), and at 0. -/
theorem witness_StoreIsSeenByNextFetch :
    (Fetches .stod (put 4093 [2#16, 4095#16] fresh) ∧ (put 4093 [2#16, 4095#16] fresh).mem.wf = true ∧
      (put 4093 [2#16, 4095#16] fresh).pc.toNat ≤ 4093 ∧
      ((put 4093 [2#16, 4095#16] fresh).mem.read 4094).toNat = 4093 + 2) ∧
    ∃ t u, step (put 0 [2#16, 2#16] (withAC 15 fresh)) = .next t ∧ step t = .next u :=
  ⟨⟨⟨rfl, by decide, by decide⟩, by decide, by decide, by decide⟩, _, _, rfl, rfl⟩

theorem witness_PopUndoesPush : fresh.mem.wf = true ∧ 1 ≤ (withSP 1 fresh).sp ∧ fresh.sp ≤ 4095 ∧
    (∃ t, exec .push (withSP 1 fresh) = .next t) ∧ (∃ t, exec .push (withAC (-1) fresh) = .next t) ∧ (withAC (-1) fresh).Inv :=
  ⟨rfl, by decide, by decide, ⟨_, rfl⟩, ⟨_, rfl⟩,
    inv_of_quiet (by decide) (by decide) (by decide) (by decide) (by decide) (by decide) rfl rfl⟩

theorem witness_StackOverflowsOnPush4096 : fresh.mem.wf = true ∧ fresh.sp = 4095 ∧ [(10 : Int)] ≠ [] ∧ [(10 : Int)].length ≤ 4095 ∧
    (List.replicate 4096 (13 : Int)).length = 4096 := by
  refine ⟨rfl, rfl, by decide, by decide, List.length_replicate⟩

theorem witness_WrapIsRegisterWidth : -32768 ≤ (-32768 : Int) ∧ (32767 : Int) ≤ 32767 := by decide

theorem witness_OrIsBitwise : 0 ≤ (6 : Int) ∧ (-3 : Int) < 0 := by decide

theorem witness_LoadPlacesImageAndResets : (List.replicate 4096 (5 : Int)).length ≤ 4096 ∧
    4096 < (List.replicate 4097 (5 : Int)).length := by
  rw [List.length_replicate, List.length_replicate]
  decide

theorem witness_PeekNamesNextInstruction : (put 4095 [16#16] fresh).pc.toNat ≤ 4095 ∧
    (put 4095 [16#16] fresh).mem.read (put 4095 [16#16] fresh).pc.toNat = Opcode.out.word ∧
    0x0011 ≤ ((put 4095 [0x0011#16] fresh).mem.read 4095).toNat ∧ 4096 ≤ (put 4096 [] fresh).pc.toNat := by decide

theorem witness_PlacedInstructionIsStepped : fresh.mem.wf = true ∧ (put 4095 [] fresh).mem.wf = true ∧
    decodeTableWord 32 0x00640001 = some (.lodd 100#16) ∧ decodeTableWord 16 0x0010 = some .out := by decide

end Sys2Proof.Tests
end

section
/-! SUPPORT. The data path as bits and residues: `wrap` is the register width, and OR is Mathlib's bitwise `Int.lor`. -/

namespace Sys2Proof.Machine

/-- In range there is one value with the low 16 bits of `v`, and HW16 wraps `v` to it (40_datapath.md R103). -/
theorem emod_eq_iff_eq_wrap_hw16 {x : Int} (v : Int) (h : -32768 ≤ x ∧ x ≤ 32767) :
    x % 65536 = v % 65536 ↔ x = wrap .hw16 v := by
  rw [← mask16_eq_iff, wrap_hw16]
  constructor
  · intro e
    rw [← e, sext16_mask16 h]
  · rintro rfl
    exact mask16_sext16 _

/-- The bits of `x` outside `y` and the bits inside it make up `x`. -/
theorem ldiff_add_land (x y : Nat) : Nat.ldiff x y + (x &&& y) = x := by
  induction x using Nat.binaryRec generalizing y with
  | zero => simp [Nat.ldiff]
  | bit b x ih =>
    cases y using Nat.bitCasesOn with
    | bit c y =>
      have hhigh := ih y
      have hlow : (b && !c).toNat + (b && c).toNat = b.toNat := by cases c <;> simp
      rw [Nat.ldiff_bit, Nat.land_bit, Nat.bit_val, Nat.bit_val, Nat.bit_val]
      omega

/-- The two formulas of 00_scope.md R10 are the OR of two's-complement integers. -/
theorem aluOr_eq_lor (a : Int) (m : Word) : aluOr a m = Int.lor a (m.toNat : Int) := by
  cases a with
  | ofNat n => rfl
  | negSucc n =>
    have hsplit := ldiff_add_land n m.toNat
    have hn : (-Int.negSucc n - 1).toNat = n := by omega
    rw [aluOr, if_pos (Int.negSucc_lt_zero n), hn]
    change _ = Int.negSucc (Nat.ldiff n m.toNat)
    omega

/-- Bit `i` of OR is the or of the two bits, at every place `i` (40_datapath.md R104). -/
theorem testBit_aluOr (a : Int) (m : Word) (i : Nat) :
    (aluOr a m).testBit i = (a.testBit i || m.toNat.testBit i) := by
  rw [aluOr_eq_lor, Int.testBit_lor]
  rfl

/-- `mask16` keeps the low 16 bits of the two's-complement representation (00_scope.md R11). -/
theorem getLsbD_mask16 (v : Int) {i : Nat} (hi : i < 16) : (mask16 v).getLsbD i = v.testBit i := by
  cases v with
  | ofNat n =>
    change (BitVec.ofInt 16 (n : Int)).getLsbD i = n.testBit i
    rw [BitVec.ofInt_natCast, BitVec.getLsbD_ofNat, decide_eq_true hi, Bool.true_and]
  | negSucc n =>
    change (BitVec.ofInt 16 (.negSucc n)).getLsbD i = !n.testBit i
    rw [BitVec.ofInt_negSucc_eq_not_ofNat, BitVec.getLsbD_not, BitVec.getLsbD_ofNat, decide_eq_true hi, Bool.true_and,
      Bool.true_and]

/-- The low 16 bits of OR are the 16-bit OR. -/
theorem mask16_aluOr (a : Int) (m : Word) : mask16 (aluOr a m) = mask16 a ||| m := by
  apply BitVec.eq_of_getLsbD_eq
  intro i hi
  rw [BitVec.getLsbD_or, getLsbD_mask16 _ hi, getLsbD_mask16 _ hi, testBit_aluOr, BitVec.testBit_toNat]

theorem aluOr_of_nonneg {a : Int} (m : Word) (h : 0 ≤ a) : aluOr a m = ((a.toNat ||| m.toNat : Nat) : Int) := by
  rw [aluOr, if_neg (by omega)]

/-- OR with a non-negative word keeps the sign bits of a negative number. -/
theorem aluOr_neg {a : Int} (m : Word) (h : a < 0) : aluOr a m < 0 := by
  have hle : (-a - 1).toNat &&& m.toNat ≤ (-a - 1).toNat := Nat.and_le_left
  rw [aluOr, if_pos h]
  omega

/-- Settles O54: HW16 wraps to the value in range with the same low 16 bits, and REF_UNBOUNDED wraps nothing. -/
theorem wrapIsRegisterWidth : Obligations.WrapIsRegisterWidth := by
  unfold Obligations.WrapIsRegisterWidth
  intro v
  obtain ⟨hlow, hhigh⟩ := sext16_range (mask16 v)
  exact ⟨rfl, hlow, hhigh, fun x hx hx' => emod_eq_iff_eq_wrap_hw16 v ⟨hx, hx'⟩⟩

/-- Settles O55, bit by bit. -/
theorem orIsBitwise : Obligations.OrIsBitwise := by
  unfold Obligations.OrIsBitwise
  intro a m
  have hw16 : wrap .hw16 (aluOr a m) = sext16 (mask16 a ||| m) := by rw [wrap_hw16, mask16_aluOr]
  exact ⟨testBit_aluOr a m, hw16, aluOr_of_nonneg m, aluOr_neg m, by decide, by decide⟩

end Sys2Proof.Machine
end

section
/-! SUPPORT. The invariant of the core's states: each update of the state keeps it on a condition of its own, so each instruction, and the
step, and the operations of the host do. -/

namespace Sys2Proof.Machine

/-- What `wrap` gives fits the register's width (10_state.md R21, R23). -/
theorem inMode_wrap (mode : WordMode) (v : Int) : InMode mode (wrap mode v) := by
  rintro rfl
  exact sext16_range _

/-- REF_UNBOUNDED does not wrap, so what is at least -1 stays so (10_state.md R23). -/
theorem floor_wrap {mode : WordMode} {v : Int} (h : mode = .refUnbounded → -1 ≤ v) :
    mode = .refUnbounded → -1 ≤ wrap mode v := by
  rintro rfl
  exact h rfl

/-- No value is both 0 and below 0 (10_state.md R27). -/
theorem flags_exclusive (v : Int) : ¬ (zeroFlag v = true ∧ negativeFlag v = true) := by
  simp only [zeroFlag, negativeFlag, decide_eq_true_eq]
  omega

theorem Fault.valid_addressFault {a : Int} (h : ¬ validAddress a) : (Fault.addressFault a).valid = true :=
  decide_eq_true h

theorem Fault.valid_stackUnderflow {v : Int} (h : 4096 ≤ v) : (Fault.stackUnderflow v).valid = true :=
  decide_eq_true h

/-- A word that does not decode is above 0x0010 (30_encoding.md R87). -/
theorem Fault.valid_illegalOpcode {w : Word} (h : decodeOpcode w = none) : (Fault.illegalOpcode w).valid = true := by
  refine decide_eq_true (Nat.lt_of_not_le fun hle => ?_)
  obtain ⟨op, hop⟩ := decodeOpcode_some_of_le hle
  rw [h] at hop
  cases hop

namespace State.Inv

variable {s : State}

/-! One lemma per update. A fault, a stop and a new SP have a condition beside the invariant; an access has its bounds. -/

theorem setPC (h : s.Inv) (w : Word) : (s.setPC w).Inv := { h with }

theorem advancePC (h : s.Inv) : s.advancePC.Inv := { h with }

theorem latchOpcode (h : s.Inv) (w : Word) : (s.latchOpcode w).Inv := { h with }

theorem jumpIf (h : s.Inv) (c : Bool) (w : Word) : (s.jumpIf c w).Inv := by
  cases c
  · exact h.advancePC
  · exact h.setPC w

theorem mirror (h : s.Inv) {a : Nat} (ha : a ≤ 4095) (w : Word) : (s.mirror a w).Inv :=
  { h with marRange := mirroredAddress_range s ha }

theorem setWord (h : s.Inv) {a : Nat} (ha : a ≤ 4095) (w : Word) : (s.setWord a w).Inv :=
  { h with memWf := Memory.write_wf w (by omega) h.memWf }

theorem setAC (h : s.Inv) (v : Int) : (s.setAC v).Inv :=
  { h with acRange := inMode_wrap _ v, flagsExclusive := flags_exclusive _ }

theorem setSP (h : s.Inv) {v : Int} (hv : s.config.wordMode = .refUnbounded → -1 ≤ v) : (s.setSP v).Inv :=
  { h with spRange := inMode_wrap _ v, spFloor := floor_wrap hv }

theorem setSPFlags (h : s.Inv) {v : Int} (hv : s.config.wordMode = .refUnbounded → -1 ≤ v) : (s.setSPFlags v).Inv :=
  { h with spRange := inMode_wrap _ v, spFloor := floor_wrap hv, flagsExclusive := flags_exclusive _ }

theorem clearRaised (h : s.Inv) : s.clearRaised.Inv :=
  { h with haltedQuiet := fun _ => rfl, raisedRecorded := nofun, raisedValid := nofun }

theorem start (h : s.Inv) : s.start.Inv := { h with haltedQuiet := nofun }

/-- A core that has just raised nothing may halt. -/
theorem stop (h : s.Inv) (hq : s.raised = none) : s.stop.Inv := { h with haltedQuiet := fun _ => hq }

/-- A running core may raise any fault with a value it can record (60_exceptions.md R207, R208). -/
theorem recordFault (h : s.Inv) (hr : s.run = true) {f : Fault} (hf : f.valid = true) : (s.recordFault f).Inv where
  memWf := h.memWf
  acRange := h.acRange
  spRange := h.spRange
  spFloor := h.spFloor
  marRange := h.marRange
  flagsExclusive := h.flagsExclusive
  haltedQuiet hn := by simp [hr] at hn
  raisedRecorded _ := by simp
  raisedValid g hg := by
    cases hg
    exact hf
  recordValid g hg := by
    rcases Option.or_eq_some_iff.mp hg with hold | ⟨-, hnew⟩
    · exact h.recordValid g hold
    · cases hnew
      exact hf

/-- Every register at its reset value: only the memory of `s` matters. -/
theorem of_registerReset (hm : s.mem.wf = true) : s.registerReset.Inv where
  memWf := hm
  acRange _ := by simp
  spRange _ := by simp [spInit]
  spFloor _ := by simp [spInit]
  marRange := by simp
  flagsExclusive := by simp
  haltedQuiet _ := rfl
  raisedRecorded := nofun
  raisedValid := nofun
  recordValid := nofun

theorem fetched (h : s.Inv) (hp : s.pc.toNat ≤ 4095) : (fetched s).Inv :=
  (h.clearRaised.mirror hp _).latchOpcode _

theorem fetchedOperand (h : s.Inv) (hp : s.pc.toNat ≤ 4094) : (fetchedOperand s).Inv :=
  (h.fetched (by omega)).mirror (by omega) _

theorem pushed (h : s.Inv) (v : Int) (hs : validAddress s.sp) : (pushed v s).Inv :=
  ((h.setWord (by omega) _).mirror (by omega) _).setSP fun _ => by simp only [aluDec]; omega

theorem popped (h : s.Inv) : (popped s).Inv :=
  h.setSP fun hm => by have := h.spFloor hm; simp only [aluInc]; omega

/-- An instruction that reads `M[A]` and writes AC keeps the invariant, whatever it computes and whether or not A is valid. -/
theorem readDirect (h : s.Inv) (hr : s.run = true) {a w : Word} {v : Int} {t : State}
    (he : (if a.toNat ≤ 4095 then .next ((s.mirror a.toNat w).setAC v).advancePC
      else .next (s.recordFault (.addressFault a.toNat))) = (.next t : Host.Outcome State Fault Refusal)) : t.Inv := by
  split at he <;> cases he
  · exact ((h.mirror ‹_› w).setAC v).advancePC
  · exact h.recordFault hr (Fault.valid_addressFault (by omega))

end State.Inv

/-- The execute phase keeps the invariant, fault or not, from a running core that has raised nothing in this step. -/
theorem exec_inv {i : Instr} {s t : State} (h : s.Inv) (hr : s.run = true) (hq : s.raised = none)
    (he : exec i s = .next t) : t.Inv := by
  cases i with
  | lodd a =>
    rw [exec_lodd] at he
    exact h.readDirect hr he
  | addd a =>
    rw [exec_addd] at he
    exact h.readDirect hr he
  | subd a =>
    rw [exec_subd] at he
    exact h.readDirect hr he
  | stodl a =>
    rw [exec_stodl] at he
    exact h.readDirect hr he
  | stod a =>
    rw [exec_stod] at he
    split at he <;> cases he
    · exact ((h.setWord ‹_› _).mirror ‹_› _).advancePC
    · exact h.recordFault hr (Fault.valid_addressFault (by omega))
  | addl =>
    rw [exec_addl] at he
    split at he <;> cases he
    · exact (h.mirror (by omega) _).setAC _
    · exact h.recordFault hr (Fault.valid_addressFault ‹_›)
  | insp =>
    rw [exec_insp] at he
    cases he
    exact h.setSPFlags fun hm => by have := h.spFloor hm; omega
  | push =>
    rw [exec_push] at he
    split at he
    · cases he
      exact h.recordFault hr (Fault.valid_addressFault ‹_›)
    · have hp := h.pushed s.ac (not_not.mp ‹_›)
      split at he <;> cases he
      · exact hp.recordFault hr rfl
      · exact hp
  | pop =>
    rw [exec_pop] at he
    split at he
    · cases he
      exact h.popped.recordFault hr (Fault.valid_stackUnderflow ‹_›)
    · split at he <;> cases he
      · exact h.popped.recordFault hr (Fault.valid_addressFault (by omega))
      · exact (h.popped.mirror (by omega) _).setAC _
  | loco k =>
    cases he
    exact (h.setAC _).advancePC
  | jump a =>
    cases he
    exact h.setPC a
  | jpos a =>
    cases he
    exact h.jumpIf _ a
  | jzer a =>
    cases he
    exact h.jumpIf _ a
  | jneg a =>
    cases he
    exact h.jumpIf _ a
  | halt =>
    cases he
    exact h.stop hq
  | ins =>
    cases he
    exact h
  | out =>
    cases he
    exact h

/-- Every step keeps the invariant. -/
theorem step_inv {s t : State} (h : s.Inv) (he : step s = .next t) : t.Inv := by
  rcases step_cases he with ⟨-, rfl⟩ | ⟨-, -, rfl⟩ | ⟨hr, hp, hd, rfl⟩ | ⟨op, hr, hp, -, -, hx⟩ | ⟨op, hr, hp, -, -, rfl⟩ |
    ⟨op, hr, hp, -, -, hx⟩
  · exact h.clearRaised
  · exact h.clearRaised.stop rfl
  · exact (h.fetched hp).recordFault hr (Fault.valid_illegalOpcode hd)
  · exact exec_inv (h.fetched hp) hr rfl hx
  · exact (h.fetched hp.le).recordFault hr rfl
  · exact exec_inv (h.fetchedOperand hp) hr rfl hx

/-- A constructed core of any parameters meets the invariant: its registers hold their reset values. -/
theorem constructed_inv (c : Config) : (State.constructed c).Inv :=
  State.Inv.of_registerReset (s := State.constructed c) Memory.wf_nil

theorem hostReset_inv {s : State} (hm : s.mem.wf = true) : (hostReset s).Inv :=
  (State.Inv.of_registerReset hm).start

/-- All that a load that is not refused does (70_reset_and_hazards.md R232). -/
theorem hostLoad_eq_next {words : List Int} {s t : State} (h : hostLoad words s = .next t) :
    imageWf words = true ∧ t = hostReset { s with mem := loadedMemory words } := by
  unfold hostLoad at h
  split at h <;> cases h
  exact ⟨‹_›, rfl⟩

theorem hostLoad_inv {words : List Int} {s t : State} (h : hostLoad words s = .next t) : t.Inv := by
  obtain ⟨hw, rfl⟩ := hostLoad_eq_next h
  exact hostReset_inv (loadedMemory_wf hw)

/-- Settles O46, by induction on how the state is reached: only a step needs the invariant of the state before it, a reset needs its
canonical memory, and a load needs nothing of it. -/
theorem reachableStatesMeetInvariant : Obligations.ReachableStatesMeetInvariant := by
  unfold Obligations.ReachableStatesMeetInvariant
  intro s h
  induction h with
  | constructed c => exact constructed_inv c
  | reset _ ih => exact hostReset_inv ih.memWf
  | load _ _ hl => exact hostLoad_inv hl
  | step _ hs ih => exact step_inv ih hs

end Sys2Proof.Machine
end

section
/-! SUPPORT. Canonical memories are determined by what they read, and reset, construction and the step meet the invariant. -/

namespace Sys2Proof.Machine

@[simp] theorem Memory.read_cons_self (b : Nat) (w : Word) (m : Memory) : Memory.read ((b, w) :: m) b = w :=
  if_pos rfl

theorem Memory.read_cons_of_ne {a b : Nat} (w : Word) (m : Memory) (h : a ≠ b) :
    Memory.read ((b, w) :: m) a = Memory.read m a :=
  if_neg h

/-- The first entry of a canonical memory is its lowest nonzero word. -/
theorem Memory.read_below_head {lo a b : Nat} {w : Word} {m : Memory} (hm : Memory.wfFrom lo ((b, w) :: m) = true)
    (ha : a < b) : Memory.read ((b, w) :: m) a = 0#16 := by
  obtain ⟨-, hrest⟩ := Memory.wfFrom_cons.mp hm
  exact Memory.read_below (Memory.wfFrom_cons.mpr ⟨le_refl b, hrest⟩) ha

/-- From any address on, a canonical memory is determined by its reads: a first entry that the other memory lacks would read 0. -/
theorem Memory.eq_of_read_eq_from {lo : Nat} {m m' : Memory} (hm : Memory.wfFrom lo m = true)
    (hm' : Memory.wfFrom lo m' = true) (hread : ∀ a, Memory.read m a = Memory.read m' a) : m = m' := by
  induction m generalizing lo m' with
  | nil =>
    cases m' with
    | nil => rfl
    | cons e m' =>
      obtain ⟨b, w⟩ := e
      obtain ⟨-, -, hw, -⟩ := Memory.wfFrom_cons.mp hm'
      exact absurd (by simpa using (hread b).symm) hw
  | cons e m ih =>
    obtain ⟨b, w⟩ := e
    obtain ⟨-, -, hw, hrest⟩ := Memory.wfFrom_cons.mp hm
    have hhead : Memory.read m' b = w := by simpa using (hread b).symm
    cases m' with
    | nil => exact absurd hhead.symm hw
    | cons e' m' =>
      obtain ⟨b', w'⟩ := e'
      obtain ⟨-, -, hw', hrest'⟩ := Memory.wfFrom_cons.mp hm'
      have hhead' : Memory.read ((b, w) :: m) b' = w' := by simpa using hread b'
      rcases Nat.lt_trichotomy b b' with hlt | rfl | hlt
      · exact absurd (hhead.symm.trans (Memory.read_below_head hm' hlt)) hw
      · obtain rfl : w = w' := by simpa using hhead'
        have htail : ∀ a, Memory.read m a = Memory.read m' a := by
          intro a
          by_cases ha : a = b
          · rw [Memory.read_below hrest (by omega), Memory.read_below hrest' (by omega)]
          · simpa only [Memory.read_cons_of_ne _ _ ha] using hread a
        rw [ih hrest hrest' htail]
      · exact absurd (hhead'.symm.trans (Memory.read_below_head hm hlt)) hw'

/-- Settles O6. -/
theorem canonicalMemoriesAreEqual : Obligations.CanonicalMemoriesAreEqual := by
  unfold Obligations.CanonicalMemoriesAreEqual
  exact fun _ _ => Memory.eq_of_read_eq_from

/-- Settles O44, by the cases of what a step can do and of what each instruction can do. -/
theorem stepKeepsInvariant : Obligations.StepKeepsInvariant := by
  unfold Obligations.StepKeepsInvariant
  exact fun _ _ => step_inv

/-- The model's reset state is reset() of a constructed core (70_reset_and_hazards.md R231, R233; log 8). -/
theorem hostReset_constructed_default : hostReset (State.constructed Config.default) = State.reset := rfl

/-- Settles O45: the reset state is the reset of a constructed core, whose memory is canonical. -/
theorem resetMeetsInvariant : Obligations.ResetMeetsInvariant := by
  unfold Obligations.ResetMeetsInvariant
  refine ⟨?_, constructed_inv⟩
  rw [← hostReset_constructed_default]
  exact hostReset_inv Memory.wf_nil

/-- Settles O57, field by field. -/
theorem resetKeepsMemory : Obligations.ResetKeepsMemory := by
  unfold Obligations.ResetKeepsMemory
  refine ⟨fun s => ?_, hostReset_constructed_default⟩
  simp [hostReset, spInit]

end Sys2Proof.Machine
end

section
/-! SUPPORT. A step computed forwards: what it answers on each condition of 60_exceptions.md R209. `step_cases` is the converse. -/

namespace Sys2Proof.Machine

variable {s : State} {op : Opcode}

theorem step_of_halted (hr : s.run = false) : step s = .next s.clearRaised := by
  rw [step, beginStep, if_pos hr]

theorem step_of_offEnd (hr : s.run = true) (hp : 4096 ≤ s.pc.toNat) : step s = .next s.clearRaised.stop := by
  rw [step, beginStep, if_neg (by simp [hr]), if_pos (show memWords ≤ _ from hp)]

/-- With PC in range a running engine fetches the word there and decodes it. -/
theorem beginStep_of_running (hr : s.run = true) (hp : s.pc.toNat ≤ 4095) :
    beginStep s = decodeFetched (s.mem.read s.pc.toNat) (fetched s) := by
  rw [beginStep, if_neg (by simp [hr]), if_neg (show ¬ memWords ≤ _ by simp only [memWords]; omega), fetchInstr,
    fetchWord_valid (s := s.clearRaised) hp]
  rfl

theorem step_of_illegal (hr : s.run = true) (hp : s.pc.toNat ≤ 4095) (hd : decodeOpcode (s.mem.read s.pc.toNat) = none) :
    step s = .next ((fetched s).recordFault (.illegalOpcode (s.mem.read s.pc.toNat))) := by
  rw [step, beginStep_of_running hr hp, decodeFetched, hd]
  rfl

theorem step_of_formatN (hr : s.run = true) (hp : s.pc.toNat ≤ 4095) (hw : s.mem.read s.pc.toNat = op.word)
    (hf : op.format = .n) : step s = exec (op.instr 0) (fetched s) := by
  rw [step, beginStep_of_running hr hp, decodeFetched, hw, decodeOpcode_word]
  simp only [hf]

/-- A Format A opcode word at PC asks for the operand fetch. -/
theorem beginStep_of_formatA (hr : s.run = true) (hp : s.pc.toNat ≤ 4095) (hw : s.mem.read s.pc.toNat = op.word)
    (hf : op.format = .a) : beginStep s = fetchOperand op (fetched s) := by
  rw [beginStep_of_running hr hp, decodeFetched, hw, decodeOpcode_word]
  simp only [hf]

theorem step_of_operandFault (hr : s.run = true) (hp : s.pc.toNat = 4095) (hw : s.mem.read s.pc.toNat = op.word)
    (hf : op.format = .a) : step s = .next ((fetched s).recordFault (.addressFault 4096)) := by
  have hz : zext16 (fetched s).pc = 4096 := by rw [zext16, fetched_pc_toNat hp.le, hp]; rfl
  rw [step, beginStep_of_formatA hr hp.le hw hf, fetchOperand, fetchWord, hz, memRead_invalid _ (by omega)]
  rfl

theorem step_of_formatA (hr : s.run = true) (hp : s.pc.toNat ≤ 4094) (hw : s.mem.read s.pc.toNat = op.word)
    (hf : op.format = .a) : step s = exec (op.instr (s.mem.read (s.pc.toNat + 1))) (fetchedOperand s) := by
  have hpc : (fetched s).pc.toNat = s.pc.toNat + 1 := fetched_pc_toNat (by omega)
  rw [step, beginStep_of_formatA hr (by omega) hw hf, fetchOperand, fetchWord_valid (by omega), hpc]
  rfl

end Sys2Proof.Machine
end

section
/-! SUPPORT. MAR, MBR and the policy that sets them affect nothing else: each update of the state keeps the agreement of two states in all
but them, so each instruction and the step do. -/

namespace Sys2Proof.Machine

namespace AgreeButMirror

variable {s u : State}

/-! One lemma per update. An access may mirror different addresses and words on the two sides. -/

theorem mirror (h : AgreeButMirror s u) (a b : Nat) (v w : Word) : AgreeButMirror (s.mirror a v) (u.mirror b w) :=
  { h with }

theorem setWord (h : AgreeButMirror s u) (a : Nat) (w : Word) : AgreeButMirror (s.setWord a w) (u.setWord a w) :=
  { h with mem := by simp [h.mem] }

theorem setAC (h : AgreeButMirror s u) (v : Int) : AgreeButMirror (s.setAC v) (u.setAC v) :=
  { h with ac := by simp [h.wordMode], flagZ := by simp [h.wordMode], flagN := by simp [h.wordMode] }

theorem setSP (h : AgreeButMirror s u) (v : Int) : AgreeButMirror (s.setSP v) (u.setSP v) :=
  { h with sp := by simp [h.wordMode] }

theorem setSPFlags (h : AgreeButMirror s u) (v : Int) : AgreeButMirror (s.setSPFlags v) (u.setSPFlags v) :=
  { h with sp := by simp [h.wordMode], flagZ := by simp [h.wordMode], flagN := by simp [h.wordMode] }

theorem setPC (h : AgreeButMirror s u) (w : Word) : AgreeButMirror (s.setPC w) (u.setPC w) :=
  { h with pc := rfl }

theorem advancePC (h : AgreeButMirror s u) : AgreeButMirror s.advancePC u.advancePC :=
  { h with pc := by simp [h.pc] }

theorem jumpIf (h : AgreeButMirror s u) (c : Bool) (w : Word) : AgreeButMirror (s.jumpIf c w) (u.jumpIf c w) := by
  cases c
  · exact h.advancePC
  · exact h.setPC w

theorem latchOpcode (h : AgreeButMirror s u) (w : Word) : AgreeButMirror (s.latchOpcode w) (u.latchOpcode w) :=
  { h.advancePC with ir := rfl }

theorem stop (h : AgreeButMirror s u) : AgreeButMirror s.stop u.stop :=
  { h with run := rfl }

theorem clearRaised (h : AgreeButMirror s u) : AgreeButMirror s.clearRaised u.clearRaised :=
  { h with raised := rfl }

theorem recordFault (h : AgreeButMirror s u) (f : Fault) : AgreeButMirror (s.recordFault f) (u.recordFault f) :=
  { h with faultRecord := by simp [h.faultRecord], raised := rfl }

theorem fetched (h : AgreeButMirror s u) : AgreeButMirror (fetched s) (fetched u) := by
  have hw : u.mem.read u.pc.toNat = s.mem.read s.pc.toNat := by rw [h.mem, h.pc]
  unfold Machine.fetched
  rw [hw]
  exact (h.clearRaised.mirror _ _ _ _).latchOpcode _

theorem fetchedOperand (h : AgreeButMirror s u) : AgreeButMirror (fetchedOperand s) (fetchedOperand u) :=
  h.fetched.mirror _ _ _ _

theorem pushed (h : AgreeButMirror s u) (v : Int) : AgreeButMirror (pushed v s) (pushed v u) := by
  unfold Machine.pushed
  rw [h.sp]
  exact ((h.setWord _ _).mirror _ _ _ _).setSP _

theorem popped (h : AgreeButMirror s u) : AgreeButMirror (popped s) (popped u) := by
  unfold Machine.popped
  rw [h.sp]
  exact h.setSP _

end AgreeButMirror

/-- Where `x` answers a next state, `y` answers one that agrees with it in all but MAR, MBR and their policy. -/
def NextsAgree (x y : Host.Outcome State Fault Refusal) : Prop :=
  ∀ s', x = .next s' → ∃ u', y = .next u' ∧ AgreeButMirror s' u'

theorem NextsAgree.next {s u : State} (h : AgreeButMirror s u) : NextsAgree (.next s) (.next u) := by
  intro s' hs
  cases hs
  exact ⟨u, rfl, h⟩

/-- Two outcomes chosen by one condition agree if they do on each side. -/
theorem NextsAgree.ite {c : Prop} [Decidable c] {x x' y y' : Host.Outcome State Fault Refusal} (h : NextsAgree x y)
    (h' : NextsAgree x' y') : NextsAgree (if c then x else x') (if c then y else y') := by
  by_cases hc : c
  · simpa only [if_pos hc] using h
  · simpa only [if_neg hc] using h'

/-- An instruction that reads `M[A]` and writes AC does so alike on both sides. -/
theorem AgreeButMirror.readDirect {s u : State} (h : AgreeButMirror s u) (a w : Word) (v : Int) :
    NextsAgree
      (if a.toNat ≤ 4095 then .next ((s.mirror a.toNat w).setAC v).advancePC else .next (s.recordFault (.addressFault a.toNat)))
      (if a.toNat ≤ 4095 then .next ((u.mirror a.toNat w).setAC v).advancePC
        else .next (u.recordFault (.addressFault a.toNat))) :=
  .ite (.next ((h.mirror _ _ _ _).setAC v).advancePC) (.next (h.recordFault _))

/-- The execute phase reads neither MAR nor MBR nor their policy. -/
theorem AgreeButMirror.exec {s u : State} (h : AgreeButMirror s u) (i : Instr) : NextsAgree (exec i s) (exec i u) := by
  cases i with
  | lodd a =>
    simp only [exec_lodd, h.mem]
    exact h.readDirect a _ _
  | addd a =>
    simp only [exec_addd, h.mem, h.ac]
    exact h.readDirect a _ _
  | subd a =>
    simp only [exec_subd, h.mem, h.ac]
    exact h.readDirect a _ _
  | stodl a =>
    simp only [exec_stodl, h.mem, h.ac]
    exact h.readDirect a _ _
  | stod a =>
    simp only [exec_stod, h.ac]
    exact .ite (.next ((h.setWord _ _).mirror _ _ _ _).advancePC) (.next (h.recordFault _))
  | addl =>
    simp only [exec_addl, h.mem, h.ac, h.sp]
    exact .ite (.next ((h.mirror _ _ _ _).setAC _)) (.next (h.recordFault _))
  | insp =>
    simp only [exec_insp, h.sp]
    exact .next (h.setSPFlags _)
  | push =>
    simp only [exec_push, h.ac, h.sp]
    exact .ite (.next (h.recordFault _)) (.ite (.next ((h.pushed _).recordFault _)) (.next (h.pushed _)))
  | pop =>
    simp only [exec_pop, h.mem, h.popped.sp]
    exact .ite (.next (h.popped.recordFault _))
      (.ite (.next (h.popped.recordFault _)) (.next ((h.popped.mirror _ _ _ _).setAC _)))
  | loco k => exact .next (h.setAC _).advancePC
  | jump a => exact .next (h.setPC a)
  | jpos a =>
    simp only [exec_jpos, h.flagN, h.flagZ]
    exact .next (h.jumpIf _ a)
  | jzer a =>
    simp only [exec_jzer, h.flagZ]
    exact .next (h.jumpIf _ a)
  | jneg a =>
    simp only [exec_jneg, h.flagN]
    exact .next (h.jumpIf _ a)
  | halt => exact .next h.stop
  | ins => exact .next h
  | out => exact .next h

/-- A step reads neither MAR nor MBR nor their policy: what decides its course is the same on both sides. -/
theorem AgreeButMirror.step {s u : State} (h : AgreeButMirror s u) : NextsAgree (step s) (step u) := by
  have hpc : u.pc.toNat = s.pc.toNat := by rw [h.pc]
  have hopcode : u.mem.read u.pc.toNat = s.mem.read s.pc.toNat := by rw [h.mem, hpc]
  have hoperand : u.mem.read (u.pc.toNat + 1) = s.mem.read (s.pc.toNat + 1) := by rw [h.mem, hpc]
  intro s' hs
  rcases step_cases hs with ⟨hr, rfl⟩ | ⟨hr, hp, rfl⟩ | ⟨hr, hp, hd, rfl⟩ | ⟨op, hr, hp, hw, hf, hx⟩ |
    ⟨op, hr, hp, hw, hf, rfl⟩ | ⟨op, hr, hp, hw, hf, hx⟩ <;> rw [← h.run] at hr
  · exact ⟨_, step_of_halted hr, h.clearRaised⟩
  · exact ⟨_, step_of_offEnd hr (by omega), h.clearRaised.stop⟩
  · rw [← hopcode] at hd ⊢
    exact ⟨_, step_of_illegal hr (by omega) hd, h.fetched.recordFault _⟩
  · rw [step_of_formatN hr (by omega) (hopcode.trans hw) hf]
    exact h.fetched.exec _ s' hx
  · exact ⟨_, step_of_operandFault hr (by omega) (hopcode.trans hw) hf, h.fetched.recordFault _⟩
  · rw [step_of_formatA hr (by omega) (hopcode.trans hw) hf, hoperand]
    exact h.fetchedOperand.exec _ s' hx

/-- Settles O48. -/
theorem marMbrDoNotAffectSteps : Obligations.MarMbrDoNotAffectSteps := by
  unfold Obligations.MarMbrDoNotAffectSteps
  exact fun _ _ s' h hs => h.step s' hs

end Sys2Proof.Machine
end

section
/-! SUPPORT. What the execute phase can do, said once for all 17 instructions, and from it the frame of each family: which registers, flags
and words an instruction can change (10_state.md R31, 40_datapath.md R105-R107). -/

namespace Sys2Proof.Machine

/-- The opcodes whose instruction writes AC (10_state.md R31). -/
def acWriters : List Opcode := [.lodd, .addd, .subd, .stodl, .loco, .addl, .pop]

/-- The opcodes whose instruction can write SP (10_state.md R31). -/
def spWriters : List Opcode := [.insp, .push, .pop]

/-- The opcodes whose instruction can write memory (20_memory.md R54). -/
def memoryWriters : List Opcode := [.stod, .push]

/-- The direct instructions that read M[A] and write AC (42_direct.md R150, R152-R154). -/
def directReaders : List Opcode := [.lodd, .addd, .subd, .stodl]

/-- The jumps (43_jumps.md R170-R173). -/
def jumpOpcodes : List Opcode := [.jpos, .jump, .jzer, .jneg]

/-- The opcodes whose instruction makes an access that can fault before it changes anything (60_exceptions.md R201). -/
def accessFaulters : List Opcode := [.lodd, .stod, .addd, .subd, .stodl, .addl, .push]

/-- The opcodes whose instruction writes the flags (40_datapath.md R105, R106). -/
def flagWriters : List Opcode := .insp :: acWriters

/-- The reserved no-ops (45_system.md R191, R192). -/
def idleOpcodes : List Opcode := [.ins, .out]

theorem directReaders_subset_acWriters : directReaders ⊆ acWriters := by decide

theorem directReaders_subset_accessFaulters : directReaders ⊆ accessFaulters := by decide

theorem format_of_mem_directReaders : ∀ op ∈ directReaders, op.format = .a := by decide

theorem format_of_mem_jumpOpcodes : ∀ op ∈ jumpOpcodes, op.format = .a := by decide

theorem jumpOpcodes_keep_flags : ∀ op ∈ jumpOpcodes, op ∉ flagWriters := by decide

theorem idleOpcodes_keep_flags : ∀ op ∈ idleOpcodes, op ∉ flagWriters := by decide

/-- What the access table of 10_state.md R31 says of AC and the flags, from `s` to `t` by an instruction of opcode `op`: a fault keeps them;
else a write of AC or INSP's of SP sets the flags, and any other instruction keeps all three. -/
def FollowsAccessTable (op : Opcode) (s t : State) : Prop :=
  (t.raised ≠ none ∧ t.flagZ = s.flagZ ∧ t.flagN = s.flagN ∧ t.ac = s.ac) ∨
    (t.raised = s.raised ∧ op ∈ acWriters ∧ FlagsOf t.ac t) ∨
    (t.raised = s.raised ∧ op = .insp ∧ FlagsOf t.sp t ∧ t.ac = s.ac) ∨
    (op ∉ flagWriters ∧ t.flagZ = s.flagZ ∧ t.flagN = s.flagN ∧ t.ac = s.ac)

/-- An increment wraps from 32767 under HW16 alone (log 12). -/
theorem wrap_add_one {mode : WordMode} {v : Int} (hm : InMode mode v) (hw : mode = .refUnbounded ∨ v ≠ 32767) :
    wrap mode (v + 1) = v + 1 := by
  cases mode with
  | hw16 =>
    obtain ⟨hlow, hhigh⟩ := hm rfl
    have hne : v ≠ 32767 := by simpa using hw
    exact sext16_mask16 (by omega)
  | refUnbounded => rfl

/-- `Executes s i t`: the execute phase of `i` can lead from `s` to `t`. The instructions that change the state in the same way share a
case; the exact condition and value of each instruction are those of its own equation `exec_lodd`, `exec_stod` and so on. -/
inductive Executes (s : State) : Instr → State → Prop where
  /-- The data access or the access at SP faults before anything changes. -/
  | accessFault {i : Instr} {a : Int} (hop : i.opcode ∈ accessFaulters)
      (ha : ¬ validAddress a) : Executes s i (s.recordFault (.addressFault a))
  /-- A direct instruction reads M[A] and writes AC. -/
  | readsDirect {i : Instr} {a : Nat} (hop : i.opcode ∈ directReaders) (ha : a ≤ 4095) (v : Int) :
      Executes s i ((s.mirror a (s.mem.read a)).setAC v).advancePC
  | loadsConstant (k : Word) : Executes s (.loco k) (s.setAC (zext16 k)).advancePC
  | stores {a : Word} (ha : a.toNat ≤ 4095) :
      Executes s (.stod a) ((s.setWord a.toNat (mask16 s.ac)).mirror a.toNat (mask16 s.ac)).advancePC
  | jumps {i : Instr} (hop : i.opcode ∈ jumpOpcodes) (target : Word) : Executes s i (s.setPC target)
  | addsSlot (hs : validAddress s.sp) (v : Int) :
      Executes s .addl ((s.mirror s.sp.toNat (s.mem.read s.sp.toNat)).setAC v)
  | incrementsSP : Executes s .insp (s.setSPFlags (s.sp + 1))
  | pushes (hs : validAddress s.sp) : Executes s .push (pushed s.ac s)
  /-- The push is complete when its bound check fails (40_datapath.md R110). -/
  | overflows (hs : validAddress s.sp) (f : Fault) : Executes s .push ((pushed s.ac s).recordFault f)
  | pops (a : Nat) (w : Word) (v : Int) : Executes s .pop (((popped s).mirror a w).setAC v)
  /-- The bound check or the read fails after the increment (40_datapath.md R111). -/
  | popFault (f : Fault) : Executes s .pop ((popped s).recordFault f)
  | halts : Executes s .halt s.stop
  | idles {i : Instr} (hop : i.opcode ∈ idleOpcodes) : Executes s i s

/-- An instruction that reads `M[A]` and writes AC reads, or faults. -/
theorem Executes.of_readDirect {s t : State} {i : Instr} {a : Word} {v : Int}
    (hop : i.opcode ∈ directReaders)
    (he : (if a.toNat ≤ 4095 then .next ((s.mirror a.toNat (s.mem.read a.toNat)).setAC v).advancePC
      else .next (s.recordFault (.addressFault a.toNat))) = (.next t : Host.Outcome State Fault Refusal)) :
    Executes s i t := by
  split at he <;> cases he
  · exact .readsDirect hop ‹_› v
  · exact .accessFault (directReaders_subset_accessFaulters hop) (by omega)

theorem Executes.of_jumpIf {s : State} {i : Instr} (hop : i.opcode ∈ jumpOpcodes) (c : Bool) (a : Word) :
    Executes s i (s.jumpIf c a) := by
  cases c
  · exact .jumps hop (s.pc + 1#16)
  · exact .jumps hop a

/-- The inversion of the execute phase. -/
theorem executes {i : Instr} {s t : State} (he : exec i s = .next t) : Executes s i t := by
  cases i with
  | lodd a =>
    rw [exec_lodd] at he
    exact .of_readDirect (by simp [directReaders, Instr.opcode]) he
  | addd a =>
    rw [exec_addd] at he
    exact .of_readDirect (by simp [directReaders, Instr.opcode]) he
  | subd a =>
    rw [exec_subd] at he
    exact .of_readDirect (by simp [directReaders, Instr.opcode]) he
  | stodl a =>
    rw [exec_stodl] at he
    exact .of_readDirect (by simp [directReaders, Instr.opcode]) he
  | stod a =>
    rw [exec_stod] at he
    split at he <;> cases he
    · exact .stores ‹_›
    · exact .accessFault (by simp [accessFaulters, Instr.opcode]) (by omega)
  | addl =>
    rw [exec_addl] at he
    split at he <;> cases he
    · exact .addsSlot ‹_› _
    · exact .accessFault (by simp [accessFaulters, Instr.opcode]) ‹_›
  | push =>
    rw [exec_push] at he
    split at he
    · cases he
      exact .accessFault (by simp [accessFaulters, Instr.opcode]) ‹_›
    · split at he <;> cases he
      · exact .overflows (not_not.mp ‹_›) _
      · exact .pushes (not_not.mp ‹_›)
  | pop =>
    rw [exec_pop] at he
    split at he
    · cases he
      exact .popFault _
    · split at he <;> cases he
      · exact .popFault _
      · exact .pops _ _ _
  | insp =>
    cases he
    exact .incrementsSP
  | loco k =>
    cases he
    exact .loadsConstant k
  | jump a =>
    cases he
    exact .jumps (by simp [jumpOpcodes, Instr.opcode]) a
  | jpos a =>
    cases he
    exact .of_jumpIf (by simp [jumpOpcodes, Instr.opcode]) _ a
  | jzer a =>
    cases he
    exact .of_jumpIf (by simp [jumpOpcodes, Instr.opcode]) _ a
  | jneg a =>
    cases he
    exact .of_jumpIf (by simp [jumpOpcodes, Instr.opcode]) _ a
  | halt =>
    cases he
    exact .halts
  | ins =>
    cases he
    exact .idles (by decide)
  | out =>
    cases he
    exact .idles (by decide)

namespace Executes

variable {s t : State} {i : Instr}

theorem ir (h : Executes s i t) : t.ir = s.ir := by
  cases h <;> rfl

theorem config (h : Executes s i t) : t.config = s.config := by
  cases h <;> rfl

/-- HALT alone writes RUN (45_system.md R190). -/
theorem run (h : Executes s i t) (hi : i.opcode ≠ .halt) : t.run = s.run := by
  cases h with
  | halts => exact absurd rfl hi
  | _ => rfl

theorem run_of_halt (h : Executes s i t) (hi : i.opcode = .halt) : t.run = false := by
  cases h with
  | halts => rfl
  | accessFault hop | readsDirect hop | jumps hop | idles hop =>
    rw [hi] at hop
    exact absurd hop (by decide)
  | _ => cases hi

theorem sameControl (h : Executes s i t) (hi : i.opcode ≠ .halt) : SameControl s t :=
  ⟨h.ir, h.run hi, h.config⟩

/-- STOD and PUSH alone write memory (20_memory.md R54). -/
theorem sameMemory (h : Executes s i t) (hi : i.opcode ∉ memoryWriters) : SameMemory s t := by
  cases h with
  | stores | pushes | overflows => exact absurd (by simp [memoryWriters, Instr.opcode]) hi
  | _ => exact fun _ => rfl

theorem sp_eq (h : Executes s i t) (hi : i.opcode ∉ spWriters) : t.sp = s.sp := by
  cases h with
  | incrementsSP | pushes | overflows | pops | popFault => exact absurd (by decide) hi
  | _ => rfl

/-- A Format N instruction leaves PC where the fetch put it (41_cycle.md R135). -/
theorem pc_eq (h : Executes s i t) (hi : i.opcode.format = .n) : t.pc = s.pc := by
  cases h with
  | readsDirect hop => simp [format_of_mem_directReaders _ hop] at hi
  | jumps hop => simp [format_of_mem_jumpOpcodes _ hop] at hi
  | loadsConstant | stores => cases hi
  | _ => rfl

theorem followsAccessTable (h : Executes s i t) : FollowsAccessTable i.opcode s t := by
  cases h with
  | accessFault | overflows | popFault => exact .inl ⟨nofun, rfl, rfl, rfl⟩
  | readsDirect hop => exact .inr (.inl ⟨rfl, directReaders_subset_acWriters hop, rfl, rfl⟩)
  | loadsConstant | addsSlot | pops => exact .inr (.inl ⟨rfl, by simp [acWriters, Instr.opcode], rfl, rfl⟩)
  | incrementsSP => exact .inr (.inr (.inl ⟨rfl, rfl, ⟨rfl, rfl⟩, rfl⟩))
  | stores | pushes | halts => exact .inr (.inr (.inr ⟨by simp [flagWriters, acWriters, Instr.opcode], rfl, rfl, rfl⟩))
  | jumps hop => exact .inr (.inr (.inr ⟨jumpOpcodes_keep_flags _ hop, rfl, rfl, rfl⟩))
  | idles hop => exact .inr (.inr (.inr ⟨idleOpcodes_keep_flags _ hop, rfl, rfl, rfl⟩))

/-- An instruction that writes neither AC nor a flag keeps them, fault or not. -/
theorem ac_flags_eq (h : Executes s i t) (hi : i.opcode ∉ flagWriters) : t.ac = s.ac ∧ SameFlags s t := by
  rcases h.followsAccessTable with ⟨-, hz, hn, hac⟩ | ⟨-, hop, -⟩ | ⟨-, hop, -⟩ | ⟨-, hz, hn, hac⟩
  · exact ⟨hac, hz, hn⟩
  · exact absurd (List.mem_cons_of_mem _ hop) hi
  · exact absurd (by simp [flagWriters, hop]) hi
  · exact ⟨hac, hz, hn⟩

/-- SP goes below -1 only by an increment that wraps: a push decrements an SP of at least 0 (40_datapath.md R114). -/
theorem sp_floor (h : Executes s i t) (hm : InMode s.config.wordMode s.sp) (hlow : -1 ≤ s.sp)
    (hw : s.config.wordMode = .refUnbounded ∨ s.sp ≠ 32767) : -1 ≤ t.sp := by
  have hinc : wrap s.config.wordMode (s.sp + 1) = s.sp + 1 := wrap_add_one hm hw
  cases h with
  | incrementsSP | pops | popFault =>
    change -1 ≤ wrap s.config.wordMode (s.sp + 1)
    omega
  | pushes hs | overflows hs =>
    change -1 ≤ (pushed s.ac s).sp
    rw [pushed_sp hs]
    omega
  | _ => exact hlow

end Executes

/-- Settles O23. -/
theorem accumulatorWritersFrame : Obligations.AccumulatorWritersFrame := by
  unfold Obligations.AccumulatorWritersFrame
  intro i s t hop he
  have hother : i.opcode ∉ spWriters ∧ i.opcode ≠ .halt ∧ i.opcode ∉ memoryWriters := by
    rcases hop with h | h | h | h | h | h <;> rw [h] <;> decide
  obtain ⟨hsp, hhalt, hmem⟩ := hother
  have hx := executes he
  exact ⟨hx.sp_eq hsp, hx.sameControl hhalt, hx.sameMemory hmem⟩

/-- A store changes no other word of a canonical memory. -/
theorem State.read_setWord_of_ne {s : State} (hm : s.mem.wf = true) {a b : Nat} (w : Word) (h : b ≠ a) :
    (s.setWord a w).mem.read b = s.mem.read b := by
  rw [State.setWord_mem, Memory.read_write hm, if_neg h]

/-- A push changes no word but the one at SP. -/
theorem read_pushed_of_ne {s : State} (hm : s.mem.wf = true) {b : Nat} (v : Int) (h : b ≠ s.sp.toNat) :
    (pushed v s).mem.read b = s.mem.read b :=
  State.read_setWord_of_ne hm _ h

theorem stod_read_of_ne {a : Word} {s t : State} (hm : s.mem.wf = true) (he : exec (.stod a) s = .next t) {b : Nat}
    (hb : (b : Int) ≠ dataAddress a) : t.mem.read b = s.mem.read b := by
  have hne : b ≠ a.toNat := by simpa [dataAddress, zext16] using hb
  rw [exec_stod] at he
  split at he <;> cases he
  · exact State.read_setWord_of_ne hm _ hne
  · rfl

theorem push_read_of_ne {s t : State} (hm : s.mem.wf = true) (he : exec .push s = .next t) {b : Nat}
    (hb : (b : Int) ≠ s.sp) : t.mem.read b = s.mem.read b := by
  rw [exec_push] at he
  split at he
  · cases he
    rfl
  · have hne : b ≠ s.sp.toNat := by omega
    split at he <;> cases he <;> exact read_pushed_of_ne hm _ hne

/-- Settles O24. -/
theorem storingInstructionsFrame : Obligations.StoringInstructionsFrame := by
  unfold Obligations.StoringInstructionsFrame
  constructor
  · intro a s t hm he
    have hx := executes he
    obtain ⟨hac, hflags⟩ := hx.ac_flags_eq (by simp [flagWriters, acWriters, Instr.opcode])
    exact ⟨hac, hx.sp_eq (by simp [spWriters, Instr.opcode]), hflags, hx.sameControl (by simp [Instr.opcode]),
      fun _ => stod_read_of_ne hm he⟩
  · intro s t hm he
    have hx := executes he
    obtain ⟨hac, hflags⟩ := hx.ac_flags_eq (by decide)
    exact ⟨hac, hflags, hx.sameControl (by decide), fun _ => push_read_of_ne hm he⟩

/-- Settles O25. -/
theorem stackPointerMoversFrame : Obligations.StackPointerMoversFrame := by
  unfold Obligations.StackPointerMoversFrame
  intro i s t hi he
  have hother : i.opcode.format = .n ∧ i.opcode ≠ .halt ∧ i.opcode ∉ memoryWriters := by
    rcases hi with rfl | rfl <;> decide
  obtain ⟨hformat, hhalt, hmem⟩ := hother
  have hx := executes he
  refine ⟨hx.pc_eq hformat, hx.sameControl hhalt, hx.sameMemory hmem, ?_⟩
  rintro rfl
  cases he
  exact ⟨rfl, ⟨rfl, rfl, rfl⟩, ⟨rfl, rfl⟩⟩

/-- A jump, taken or not, writes PC alone (43_jumps.md R174). -/
theorem State.jumpIf_pc_alone (c : Bool) (a : Word) (s : State) : s.jumpIf c a = { s with pc := (s.jumpIf c a).pc } := by
  cases c <;> rfl

/-- Settles O26, instruction by instruction; of the others the statement says nothing. -/
theorem controlInstructionsFrame : Obligations.ControlInstructionsFrame := by
  unfold Obligations.ControlInstructionsFrame
  intro i s t he
  cases i with
  | jump a =>
    cases he
    exact ⟨fun _ => rfl, nofun, nofun⟩
  | jpos a | jzer a | jneg a =>
    cases he
    exact ⟨fun _ => State.jumpIf_pc_alone _ a s, nofun, nofun⟩
  | halt =>
    cases he
    exact ⟨nofun, fun _ => rfl, nofun⟩
  | ins | out =>
    cases he
    exact ⟨nofun, nofun, fun _ => rfl⟩
  | _ => exact ⟨nofun, nofun, nofun⟩

end Sys2Proof.Machine
end

section
/-! SUPPORT. The registers and flags after a step, from the inversion of the step and of its execute phase. -/

namespace Sys2Proof.Machine

/-- All that a running engine can do with PC in range: the first two cases of `step_cases` are out. -/
theorem step_cases_of_running {s t : State} (h : step s = .next t) (hr : s.run = true) (hp : s.pc.toNat ≤ 4095) :
    (decodeOpcode (s.mem.read s.pc.toNat) = none ∧
        t = (fetched s).recordFault (.illegalOpcode (s.mem.read s.pc.toNat))) ∨
      (∃ op : Opcode, s.mem.read s.pc.toNat = op.word ∧ op.format = .n ∧ Executes (fetched s) (op.instr 0) t) ∨
      (∃ op : Opcode, s.mem.read s.pc.toNat = op.word ∧ op.format = .a ∧
        t = (fetched s).recordFault (.addressFault 4096)) ∨
      (∃ op : Opcode, s.mem.read s.pc.toNat = op.word ∧ op.format = .a ∧
        Executes (fetchedOperand s) (op.instr (s.mem.read (s.pc.toNat + 1))) t) := by
  rcases step_cases h with ⟨hr', -⟩ | ⟨-, hp', -⟩ | ⟨-, -, hd, e⟩ | ⟨op, -, -, hw, hf, hx⟩ | ⟨op, -, -, hw, hf, e⟩ |
    ⟨op, -, -, hw, hf, hx⟩
  · simp [hr] at hr'
  · omega
  · exact .inl ⟨hd, e⟩
  · exact .inr (.inl ⟨op, hw, hf, executes hx⟩)
  · exact .inr (.inr (.inl ⟨op, hw, hf, e⟩))
  · exact .inr (.inr (.inr ⟨op, hw, hf, executes hx⟩))

theorem step_ir_of_running {s t : State} (h : step s = .next t) (hr : s.run = true) (hp : s.pc.toNat ≤ 4095) :
    t.ir = s.mem.read s.pc.toNat := by
  rcases step_cases_of_running h hr hp with ⟨-, rfl⟩ | ⟨op, -, -, hx⟩ | ⟨op, -, -, rfl⟩ | ⟨op, -, -, hx⟩
  · rfl
  · exact hx.ir
  · rfl
  · exact hx.ir

/-- A step that fetches nothing, from a halted engine or off the end, changes `raised` and RUN alone. -/
theorem step_eq_of_no_fetch {s t : State} (h : step s = .next t) (hno : s.run = false ∨ 4096 ≤ s.pc.toNat) :
    t = { s.clearRaised with run := false } := by
  rcases step_cases h with ⟨hr, rfl⟩ | ⟨-, -, rfl⟩ | ⟨hr, hp, -⟩ | ⟨op, hr, hp, -⟩ | ⟨op, hr, hp, -⟩ | ⟨op, hr, hp, -⟩
  · rw [← hr]
    rfl
  · rfl
  all_goals
    rcases hno with hr' | hp'
    · simp [hr] at hr'
    · omega

/-- Settles O31. -/
theorem irHoldsFetchedOpcode : Obligations.IrHoldsFetchedOpcode := by
  unfold Obligations.IrHoldsFetchedOpcode
  intro s t h
  refine ⟨step_ir_of_running h, fun hno => ?_⟩
  rw [step_eq_of_no_fetch h hno]
  rfl

theorem Opcode.word_inj {op op' : Opcode} (h : op.word = op'.word) : op = op' := by
  simpa using congrArg decodeOpcode h

theorem Opcode.word_eq_zero_iff {op : Opcode} : op.word = 0x0000#16 ↔ op = .halt :=
  ⟨fun h => Opcode.word_inj h, fun h => by rw [h]; rfl⟩

theorem Opcode.ne_halt_of_formatA {op : Opcode} (hf : op.format = .a) : op ≠ .halt := by
  rintro rfl
  cases hf

/-- A step that fetches an opcode word clears RUN exactly if it is HALT's: a fault leaves RUN as it was (60_exceptions.md R207). -/
theorem step_run_of_running {s t : State} (h : step s = .next t) (hr : s.run = true) (hp : s.pc.toNat ≤ 4095) :
    t.run = false ↔ s.mem.read s.pc.toNat = 0x0000#16 := by
  rcases step_cases_of_running h hr hp with ⟨hd, rfl⟩ | ⟨op, hw, -, hx⟩ | ⟨op, hw, hf, rfl⟩ | ⟨op, hw, hf, hx⟩
  · have hne : s.mem.read s.pc.toNat ≠ 0x0000#16 := by
      intro h0
      rw [h0] at hd
      cases hd
    simp [hr, hne]
  · rw [hw, Opcode.word_eq_zero_iff]
    by_cases hop : op = .halt
    · subst hop
      simp [hx.run_of_halt (by simp)]
    · simp [hx.run (by simpa using hop), hr, hop]
  · have hop := Opcode.ne_halt_of_formatA hf
    simp [hr, hw, Opcode.word_eq_zero_iff, hop]
  · have hop := Opcode.ne_halt_of_formatA hf
    simp [hx.run (by simpa using hop), hr, hw, Opcode.word_eq_zero_iff, hop]

/-- Settles O36. -/
theorem runIsClearedByHaltAndOffEndOnly : Obligations.RunIsClearedByHaltAndOffEndOnly := by
  unfold Obligations.RunIsClearedByHaltAndOffEndOnly
  refine ⟨fun s t h => ?_, fun _ => rfl, fun words s t h => ?_, fun _ => rfl⟩
  · by_cases hno : s.run = false ∨ 4096 ≤ s.pc.toNat
    · rw [step_eq_of_no_fetch h hno]
      simp [← or_assoc, hno]
    · rw [not_or, Bool.not_eq_false, Nat.not_le] at hno
      obtain ⟨hr, hp⟩ := hno
      rw [step_run_of_running h hr (by omega)]
      simp [hr, Nat.not_le.mpr hp]
  · obtain ⟨-, rfl⟩ := hostLoad_eq_next h
    rfl

/-- All that a step which fetches the opcode `op` can do: fault in the operand fetch, or execute `op` from the state the fetch leaves. -/
theorem step_of_fetches {s t : State} {op : Opcode} (hF : Fetches op s) (h : step s = .next t) :
    (op.format = .a ∧ t = (fetched s).recordFault (.addressFault 4096)) ∨
      (op.format = .n ∧ Executes (fetched s) (op.instr 0) t) ∨
      (op.format = .a ∧ Executes (fetchedOperand s) (op.instr (s.mem.read (s.pc.toNat + 1))) t) := by
  obtain ⟨hr, hp, hw⟩ := hF
  rcases step_cases_of_running h hr hp with ⟨hd, -⟩ | ⟨op', hw', hf, hx⟩ | ⟨op', hw', hf, e⟩ | ⟨op', hw', hf, hx⟩
  · simp [hw] at hd
  all_goals obtain rfl := Opcode.word_inj (hw'.symm.trans hw)
  · exact .inr (.inl ⟨hf, hx⟩)
  · exact .inl ⟨hf, e⟩
  · exact .inr (.inr ⟨hf, hx⟩)

/-- The access table holds of the whole step, since the fetch leaves AC and the flags and raises nothing that stays. -/
theorem step_followsAccessTable {s t : State} {op : Opcode} (hF : Fetches op s) (h : step s = .next t) :
    FollowsAccessTable op s.clearRaised t := by
  rcases step_of_fetches hF h with ⟨-, rfl⟩ | ⟨-, hx⟩ | ⟨-, hx⟩
  · exact .inl ⟨nofun, rfl, rfl, rfl⟩
  all_goals
    have htable := hx.followsAccessTable
    rw [Opcode.instr_opcode] at htable
    exact htable

theorem step_sp_eq {s t : State} {op : Opcode} (hF : Fetches op s) (h : step s = .next t) (hop : op ∉ spWriters) :
    t.sp = s.sp := by
  rcases step_of_fetches hF h with ⟨-, rfl⟩ | ⟨-, hx⟩ | ⟨-, hx⟩
  · rfl
  all_goals exact hx.sp_eq (by rwa [Opcode.instr_opcode])

/-- Settles O38, by the four rows of `FollowsAccessTable`. -/
theorem flagsFollowAccessTable : Obligations.FlagsFollowAccessTable := by
  unfold Obligations.FlagsFollowAccessTable
  intro s t op hF h writesAc
  have hac : writesAc ↔ op ∈ acWriters := by simp [writesAc, acWriters]
  have hflags : writesAc ∨ op = .insp ↔ op ∈ flagWriters := by simp [hac, flagWriters, or_comm]
  have hsp : ¬ (op = .insp ∨ op = .push ∨ op = .pop) → t.sp = s.sp := fun hop =>
    step_sp_eq hF h (by simpa [spWriters] using hop)
  rw [hflags, hac]
  rcases step_followsAccessTable hF h with ⟨hraised, hz, hn, hkeep⟩ | ⟨hnone, hop, hf⟩ | ⟨hnone, rfl, hf, hkeep⟩ |
    ⟨hop, hz, hn, hkeep⟩
  · exact ⟨fun h0 => absurd h0 hraised, fun h0 => absurd h0 hraised, fun _ => ⟨hz, hn⟩, fun _ => hkeep, hsp⟩
  · have hno : op ≠ .insp := by
      rintro rfl
      exact absurd hop (by decide)
    have hwrites : op ∈ flagWriters := List.mem_cons_of_mem _ hop
    exact ⟨fun _ _ => hf, fun _ hi => absurd hi hno, fun hor => absurd hor (by simp [hnone, hwrites]),
      fun hor => absurd hor (by simp [hnone, hop]), hsp⟩
  · exact ⟨fun _ hi => absurd hi (by decide), fun _ _ => hf, fun hor => absurd hor (by simp [hnone, flagWriters]),
      fun _ => hkeep, hsp⟩
  · have hnoAc : op ∉ acWriters := fun hi => hop (List.mem_cons_of_mem _ hi)
    have hnoSp : op ≠ .insp := fun hi => hop (by simp [flagWriters, hi])
    exact ⟨fun _ hi => absurd hi hnoAc, fun _ hi => absurd hi hnoSp, fun _ => ⟨hz, hn⟩, fun _ => hkeep, hsp⟩

/-- Settles O47: outside the execute phase a step leaves SP. -/
theorem spStaysAboveFloor : Obligations.SpStaysAboveFloor := by
  unfold Obligations.SpStaysAboveFloor
  intro s t hi h hlow hw
  rcases step_cases h with ⟨-, rfl⟩ | ⟨-, -, rfl⟩ | ⟨-, -, -, rfl⟩ | ⟨op, -, -, -, -, hx⟩ | ⟨op, -, -, -, -, rfl⟩ |
    ⟨op, -, -, -, -, hx⟩
  · exact hlow
  · exact hlow
  · exact hlow
  · exact (executes hx).sp_floor hi.spRange hlow hw
  · exact hlow
  · exact (executes hx).sp_floor hi.spRange hlow hw

end Sys2Proof.Machine
end

section
/-! SUPPORT. The memory and what writes it: an access inside or outside 0..4095, a read after a write, STOD and PUSH, the steps that can
change a word, and the two stack faults. -/

namespace Sys2Proof.Machine

/-! ### What an access leaves -/

/-- A write that completes had a valid address, and stored its word there (20_memory.md R51, R53). -/
theorem memWrite_eq_done {a v : Int} {s t : State} {w : Word} (h : memWrite a v s = .done w t) :
    validAddress a ∧ t = (s.setWord a.toNat (mask16 v)).mirror a.toNat (mask16 v) := by
  by_cases ha : validAddress a
  · rw [memWrite_valid v s ha] at h
    cases h
    exact ⟨ha, rfl⟩
  · rw [memWrite_invalid v s ha] at h
    cases h

theorem State.read_setWord_self {s : State} (hm : s.mem.wf = true) (a : Nat) (w : Word) :
    (s.setWord a w).mem.read a = w := by
  rw [State.setWord_mem, Memory.read_write hm, if_pos rfl]

theorem read_pushed_self {s : State} (hm : s.mem.wf = true) (v : Int) :
    (pushed v s).mem.read s.sp.toNat = mask16 v :=
  State.read_setWord_self hm _ _

/-- MAR and MBR mirror an access made at a valid address from a state `s'` of the same parameters (40_datapath.md R115). -/
theorem Mirrors.of_access {a : Nat} {w : Word} {s t : State} (s' : State) (ha : a ≤ 4095) (hc : s'.config = s.config)
    (hmar : t.mar = mirroredAddress a s') (hmbr : t.mbr = mirroredWord w s') : Mirrors a w s t where
  everyAccess h := by
    rw [← hc] at h
    exact ⟨hmar.trans (mirroredAddress_everyAccess h), hmbr.trans (mirroredWord_everyAccess h)⟩
  unconstrained _ := by
    rw [hmar]
    exact mirroredAddress_range s' ha

/-- Taking a fault changes the two fault fields alone (60_exceptions.md R206). -/
theorem faultsOnly_recordFault (f : Fault) (s : State) : FaultsOnly f s (s.recordFault f) where
  taken := ⟨rfl, rfl⟩
  pc := rfl
  ac := rfl
  sp := rfl
  flags := ⟨rfl, rfl⟩
  control := ⟨rfl, rfl, rfl⟩
  memory := fun _ => rfl
  mirror := ⟨rfl, rfl, rfl⟩

/-- Every Format A instruction faults alike at p = 4095 (41_cycle.md R133). -/
theorem operandFetchFaults {op : Opcode} (hf : op.format = .a) : OperandFetchFaults op := by
  rintro s ⟨hr, hp, hw⟩ h4095
  have hpc : (fetched s).pc.toNat = 4096 := by rw [fetched_pc_toNat hp, h4095]
  have hmirror : Mirrors s.pc.toNat (s.mem.read s.pc.toNat) s ((fetched s).recordFault (.addressFault 4096)) :=
    .of_access s hp rfl rfl rfl
  rw [hw, h4095] at hmirror
  exact ⟨_, step_of_operandFault hr h4095 hw hf, ⟨rfl, rfl⟩, hpc, hw, rfl, rfl, ⟨rfl, rfl⟩, rfl, rfl, fun _ => rfl,
    hmirror⟩

/-- Settles O4. -/
theorem accessFaultsOutsideMemory : Obligations.AccessFaultsOutsideMemory := by
  unfold Obligations.AccessFaultsOutsideMemory
  intro a v s
  refine ⟨fun ha => ⟨⟨_, memRead_valid s ha, rfl⟩, _, memWrite_valid v s ha⟩, fun ha => ?_⟩
  have hno : ¬ validAddress a := by omega
  exact ⟨memRead_invalid s hno, memWrite_invalid v s hno⟩

/-- Settles O5, by the read law of a canonical memory. -/
theorem memReadReturnsLatestWrite : Obligations.MemReadReturnsLatestWrite := by
  unfold Obligations.MemReadReturnsLatestWrite
  intro a b v s t w hm hwrite hb hb'
  obtain ⟨ha, rfl⟩ := memWrite_eq_done hwrite
  have hread : ((s.setWord a.toNat (mask16 v)).mirror a.toNat (mask16 v)).mem.read b.toNat =
      if b = a then BitVec.ofInt 16 v else s.mem.read b.toNat := by
    by_cases hba : b = a
    · rw [if_pos hba, hba]
      exact State.read_setWord_self hm _ _
    · rw [if_neg hba]
      exact State.read_setWord_of_ne hm _ (by omega)
  rw [← hread]
  exact ⟨_, memRead_valid _ ⟨hb, hb'⟩, rfl, Memory.write_wf _ (by omega) hm⟩

/-! ### STOD and PUSH -/

/-- A STOD at a valid address (42_direct.md R151). -/
theorem exec_stod_valid {a : Word} (s : State) (ha : a.toNat ≤ 4095) :
    exec (.stod a) s = .next ((s.setWord a.toNat (mask16 s.ac)).mirror a.toNat (mask16 s.ac)).advancePC := by
  rw [exec_stod, if_pos ha]

/-- Settles O8. -/
theorem stodStoresAccumulator : Obligations.StodStoresAccumulator := by
  unfold Obligations.StodStoresAccumulator
  refine ⟨fun _ => rfl, operandFetchFaults rfl, fun a s ha => ?_, fun a s hm ha => ?_⟩
  · exact ⟨_, by rw [exec_stod, if_neg (by omega)], faultsOnly_recordFault _ s⟩
  · exact ⟨_, exec_stod_valid s ha, State.read_setWord_self hm _ _, fun _ => State.read_setWord_of_ne hm _, rfl, ⟨rfl, rfl⟩, rfl,
      rfl, ⟨rfl, rfl, rfl⟩, ⟨rfl, rfl⟩, .of_access (s.setWord a.toNat (mask16 s.ac)) ha rfl rfl rfl⟩

/-- A push at SP = 0 writes M[0], decrements SP and only then overflows (40_datapath.md R110). -/
theorem exec_push_at_zero {s : State} (h0 : s.sp = 0) :
    exec .push s = .next ((pushed s.ac s).recordFault (.stackOverflow (-1))) := by
  rw [exec_push, if_neg (by omega), if_pos h0]

theorem mirrors_pushed {s t : State} {v : Int} (hs : validAddress s.sp) (hmar : t.mar = (pushed v s).mar)
    (hmbr : t.mbr = (pushed v s).mbr) : Mirrors s.sp.toNat (mask16 v) s t :=
  .of_access s (by omega) rfl hmar hmbr

/-- Settles O19, by the three ranges of SP. -/
theorem pushStoresAndDecrements : Obligations.PushStoresAndDecrements := by
  unfold Obligations.PushStoresAndDecrements
  refine ⟨rfl, fun s hm h1 h4095 => ?_, fun s hm h0 => ?_, fun s hout => ?_⟩
  · have hs : validAddress s.sp := by omega
    exact ⟨pushed s.ac s, by rw [exec_push, if_neg (not_not.mpr hs), if_neg (by omega)], read_pushed_self hm _,
      fun _ => read_pushed_of_ne hm _, pushed_sp hs, rfl, ⟨rfl, rfl⟩, rfl, ⟨rfl, rfl, rfl⟩, ⟨rfl, rfl⟩,
      mirrors_pushed hs rfl rfl⟩
  · have hs : validAddress s.sp := by omega
    have hslot : s.sp.toNat = 0 := by omega
    have hsp : (pushed s.ac s).sp = -1 := by rw [pushed_sp hs, h0]; rfl
    rw [← hslot]
    exact ⟨_, exec_push_at_zero h0, ⟨rfl, rfl⟩, read_pushed_self hm _, fun _ => read_pushed_of_ne hm _, hsp, rfl, ⟨rfl, rfl⟩, rfl,
      ⟨rfl, rfl, rfl⟩, mirrors_pushed hs rfl rfl⟩
  · exact ⟨_, by rw [exec_push, if_pos (by omega)], faultsOnly_recordFault _ s⟩

/-! ### The steps that can change a word -/

/-- Executed from `s'`, a state with the memory of `s`, the instruction fetched changes a word only if it is a memory writer. -/
theorem sameMemory_or_fetches {s t : State} (s' : State) {op : Opcode} {k : Word} (hF : Fetches op s) (hm : s'.mem = s.mem)
    (hx : exec (op.instr k) s' = .next t) : SameMemory s t ∨ ∃ op ∈ memoryWriters, Fetches op s := by
  by_cases hop : op ∈ memoryWriters
  · exact .inr ⟨op, hop, hF⟩
  · have hsame := (executes hx).sameMemory (by rwa [Opcode.instr_opcode])
    rw [SameMemory, hm] at hsame
    exact .inl hsame

/-- A step that fetches no memory writer changes no word (20_memory.md R54). -/
theorem step_sameMemory_or_fetches {s t : State} (h : step s = .next t) :
    SameMemory s t ∨ ∃ op ∈ memoryWriters, Fetches op s := by
  rcases step_cases h with ⟨-, rfl⟩ | ⟨-, -, rfl⟩ | ⟨-, -, -, rfl⟩ | ⟨op, hr, hp, hw, -, hx⟩ | ⟨op, -, -, -, -, rfl⟩ |
    ⟨op, hr, hp, hw, -, hx⟩
  · exact .inl fun _ => rfl
  · exact .inl fun _ => rfl
  · exact .inl fun _ => rfl
  · exact sameMemory_or_fetches (fetched s) ⟨hr, hp, hw⟩ rfl hx
  · exact .inl fun _ => rfl
  · exact sameMemory_or_fetches (fetchedOperand s) ⟨hr, by omega, hw⟩ rfl hx

/-- Settles O37. -/
theorem memoryIsWrittenByStodAndPushOnly : Obligations.MemoryIsWrittenByStodAndPushOnly := by
  unfold Obligations.MemoryIsWrittenByStodAndPushOnly
  refine ⟨fun s t a h hne => ?_, fun _ _ => rfl, fun _ _ => rfl⟩
  rcases step_sameMemory_or_fetches h with hsame | ⟨op, hop, hF⟩
  · exact absurd (hsame a) hne
  · simp only [memoryWriters, List.mem_cons, List.not_mem_nil, or_false] at hop
    rcases hop with rfl | rfl
    · exact .inl hF
    · exact .inr hF

/-! ### The stack faults -/

/-- The faults PUSH can raise (60_exceptions.md R201, R203). -/
theorem exec_push_raised {s t : State} {f : Fault} (hq : s.raised = none) (he : exec .push s = .next t)
    (hf : t.raised = some f) : (∃ a, f = .addressFault a) ∨ (s.sp = 0 ∧ f = .stackOverflow (-1)) := by
  rw [exec_push] at he
  split at he
  · cases he
    cases hf
    exact .inl ⟨_, rfl⟩
  · split at he <;> cases he
    · cases hf
      exact .inr ⟨‹_›, rfl⟩
    · cases hq.symm.trans hf

/-- The faults POP can raise (60_exceptions.md R201, R204). -/
theorem exec_pop_raised {s t : State} {f : Fault} (hq : s.raised = none) (he : exec .pop s = .next t)
    (hf : t.raised = some f) :
    (∃ a, f = .addressFault a) ∨ (4096 ≤ (popped s).sp ∧ f = .stackUnderflow (popped s).sp) := by
  rw [exec_pop] at he
  split at he
  · cases he
    cases hf
    exact .inr ⟨‹_›, rfl⟩
  · split at he <;> cases he
    · cases hf
      exact .inl ⟨_, rfl⟩
    · cases hq.symm.trans hf

/-- The faults the execute phase can raise: StackOverflow by PUSH alone, StackUnderflow by POP alone, and AddressFault. -/
theorem exec_raised_cases {i : Instr} {s t : State} {f : Fault} (hq : s.raised = none) (he : exec i s = .next t)
    (hf : t.raised = some f) :
    (∃ a, f = .addressFault a) ∨ (i = .push ∧ s.sp = 0 ∧ f = .stackOverflow (-1)) ∨
      (i = .pop ∧ 4096 ≤ (popped s).sp ∧ f = .stackUnderflow (popped s).sp) := by
  cases executes he with
  | accessFault =>
    cases hf
    exact .inl ⟨_, rfl⟩
  | overflows => exact (exec_push_raised hq he hf).imp_right fun hover => .inl ⟨rfl, hover⟩
  | popFault => exact (exec_pop_raised hq he hf).imp_right fun hunder => .inr ⟨rfl, hunder⟩
  | _ => cases hq.symm.trans hf

theorem Opcode.eq_of_instr {op : Opcode} {k : Word} {i : Instr} (h : op.instr k = i) : op = i.opcode := by
  rw [← h, Opcode.instr_opcode]

/-- The faults a step can raise. -/
theorem step_raised_cases {s t : State} {f : Fault} (h : step s = .next t) (hf : t.raised = some f) :
    (∃ w, f = .illegalOpcode w) ∨ (∃ a, f = .addressFault a) ∨
      (Fetches .push s ∧ s.sp = 0 ∧ f = .stackOverflow (-1)) ∨
      (Fetches .pop s ∧ 4096 ≤ wrap s.config.wordMode (s.sp + 1) ∧
        f = .stackUnderflow (wrap s.config.wordMode (s.sp + 1))) := by
  rcases step_cases h with ⟨-, rfl⟩ | ⟨-, -, rfl⟩ | ⟨-, -, -, rfl⟩ | ⟨op, hr, hp, hw, -, hx⟩ | ⟨op, -, -, -, -, rfl⟩ |
    ⟨op, -, -, -, hformat, hx⟩
  · cases hf
  · cases hf
  · cases hf
    exact .inl ⟨_, rfl⟩
  · rcases exec_raised_cases rfl hx hf with haddress | ⟨hi, h0, e⟩ | ⟨hi, h4096, e⟩
    · exact .inr (.inl haddress)
    · obtain rfl : op = .push := Opcode.eq_of_instr hi
      exact .inr (.inr (.inl ⟨⟨hr, hp, hw⟩, h0, e⟩))
    · obtain rfl : op = .pop := Opcode.eq_of_instr hi
      exact .inr (.inr (.inr ⟨⟨hr, hp, hw⟩, h4096, e⟩))
  · cases hf
    exact .inr (.inl ⟨_, rfl⟩)
  · rcases exec_raised_cases rfl hx hf with haddress | ⟨hi, -⟩ | ⟨hi, -⟩
    · exact .inr (.inl haddress)
    · obtain rfl : op = .push := Opcode.eq_of_instr hi
      cases hformat
    · obtain rfl : op = .pop := Opcode.eq_of_instr hi
      cases hformat

theorem step_push_at_zero {s : State} (hF : Fetches .push s) (h0 : s.sp = 0) :
    step s = .next ((pushed s.ac (fetched s)).recordFault (.stackOverflow (-1))) := by
  obtain ⟨hr, hp, hw⟩ := hF
  exact (step_of_formatN hr hp hw rfl).trans (exec_push_at_zero h0)

theorem step_pop_above {s : State} (hF : Fetches .pop s) (h : 4096 ≤ wrap s.config.wordMode (s.sp + 1)) :
    step s = .next ((popped (fetched s)).recordFault (.stackUnderflow (wrap s.config.wordMode (s.sp + 1)))) := by
  obtain ⟨hr, hp, hw⟩ := hF
  exact (step_of_formatN hr hp hw rfl).trans ((exec_pop (fetched s)).trans (if_pos h))

theorem step_stackOverflow_iff {s t : State} {v : Int} (h : step s = .next t) :
    t.raised = some (.stackOverflow v) ↔ Fetches .push s ∧ s.sp = 0 ∧ v = -1 := by
  constructor
  · intro hf
    rcases step_raised_cases h hf with ⟨_, e⟩ | ⟨_, e⟩ | ⟨hF, h0, e⟩ | ⟨-, -, e⟩ <;> cases e
    exact ⟨hF, h0, rfl⟩
  · rintro ⟨hF, h0, rfl⟩
    rw [step_push_at_zero hF h0] at h
    cases h
    rfl

theorem step_stackUnderflow_iff {s t : State} {v : Int} (h : step s = .next t) :
    t.raised = some (.stackUnderflow v) ↔ Fetches .pop s ∧ v = wrap s.config.wordMode (s.sp + 1) ∧ 4096 ≤ v := by
  constructor
  · intro hf
    rcases step_raised_cases h hf with ⟨_, e⟩ | ⟨_, e⟩ | ⟨-, -, e⟩ | ⟨hF, h4096, e⟩ <;> cases e
    exact ⟨hF, rfl, h4096⟩
  · rintro ⟨hF, rfl, h4096⟩
    rw [step_pop_above hF h4096] at h
    cases h
    rfl

/-- Settles O41: each fault says what was fetched and SP, and so which state the step answers. -/
theorem stackFaultsExactlyWhere : Obligations.StackFaultsExactlyWhere := by
  unfold Obligations.StackFaultsExactlyWhere
  intro s t v hm h
  refine ⟨step_stackOverflow_iff h, fun hf => ?_, step_stackUnderflow_iff h, fun hf => ?_⟩
  · obtain ⟨hF, h0, -⟩ := (step_stackOverflow_iff h).mp hf
    rw [step_push_at_zero hF h0] at h
    cases h
    have hword := read_pushed_self (s := fetched s) hm s.ac
    have hsp := pushed_sp (v := s.ac) (s := fetched s) (show validAddress s.sp by omega)
    rw [fetched_sp, h0] at hword hsp
    exact ⟨hword, hsp⟩
  · obtain ⟨hF, rfl, h4096⟩ := (step_stackUnderflow_iff h).mp hf
    rw [step_pop_above hF h4096] at h
    cases h
    exact ⟨rfl, rfl, fun _ => rfl, .of_access s hF.inRange rfl rfl rfl⟩

/-! ### A store over the next instruction -/

/-- Settles O51: the store leaves PC at the word it has written, and the next step latches what it reads there. -/
theorem storeIsSeenByNextFetch : Obligations.StoreIsSeenByNextFetch := by
  unfold Obligations.StoreIsSeenByNextFetch
  rintro s t u hm ⟨hr, -, hw⟩ hp ha h h'
  have hstep := (step_of_formatA hr (by omega) hw rfl).trans (exec_stod_valid (fetchedOperand s) (by omega))
  rw [hstep] at h
  cases h
  have hpc : (s.pc + 1#16 + 1#16).toNat = (s.mem.read (s.pc.toNat + 1)).toNat := by bv_omega
  refine ⟨rfl, (step_ir_of_running h' hr ?_).trans ?_⟩
  · change (s.pc + 1#16 + 1#16).toNat ≤ 4095
    omega
  · change (State.setWord _ _ (fetchedOperand s)).mem.read (s.pc + 1#16 + 1#16).toNat = _
    rw [hpc]
    exact State.read_setWord_self hm _ _

end Sys2Proof.Machine
end

section
/-! SUPPORT. The encoding: the decoder's answer on each kind of word sequence and its inversion, the words of an instruction, the illegal
words and the step that fetches one, and the instruction that `withFetchWord` places. -/

namespace Sys2Proof

/-! ### The opcode word -/

theorem decodeOpcode_eq_some_iff {w : Word} {op : Opcode} : decodeOpcode w = some op ↔ w = op.word :=
  ⟨decodeOpcode_eq_some, fun h => by rw [h, decodeOpcode_word]⟩

/-- The words above 0x0010 are the illegal ones (30_encoding.md R87). -/
theorem decodeOpcode_eq_none_iff {w : Word} : decodeOpcode w = none ↔ 0x0011 ≤ w.toNat := by
  constructor
  · intro h
    by_contra hlt
    obtain ⟨op, hop⟩ := decodeOpcode_some_of_le (w := w) (by omega)
    simp [h] at hop
  · intro h
    refine Option.eq_none_iff_forall_ne_some.mpr fun op hop => ?_
    have hle := op.word_le
    rw [← decodeOpcode_eq_some hop] at hle
    omega

theorem upperByte_eq_zero_iff {w : Word} : w.extractLsb' 8 8 = 0#8 ↔ w.toNat < 256 := by
  have := w.isLt
  rw [← BitVec.toNat_inj, BitVec.extractLsb'_toNat, Nat.shiftRight_eq_div_pow]
  simp only [BitVec.toNat_ofNat]
  omega

/-- With the upper byte 0 the lower byte is the whole word, so the two-byte check is one bound. -/
theorem opcodeWordWf_iff {w : Word} : opcodeWordWf w = true ↔ w.toNat ≤ 0x0010 := by
  have hlow : (w.extractLsb' 0 8).toNat = w.toNat % 256 := by
    rw [BitVec.extractLsb'_toNat, Nat.shiftRight_zero]
  rw [opcodeWordWf, Bool.and_eq_true, beq_iff_eq, decide_eq_true_eq, upperByte_eq_zero_iff, hlow]
  omega

/-! ### An instruction as an opcode and an operand word -/

@[simp] theorem Instr.wf_eq_true (i : Instr) : i.wf = true := by
  cases i <;> rfl

/-- Every instruction is its opcode with no operand, or with one operand word (30_encoding.md R82, R83). -/
theorem Instr.eq_opcode_instr (i : Instr) :
    (i.opcode.format = .n ∧ i = i.opcode.instr 0) ∨ (i.opcode.format = .a ∧ ∃ k, i = i.opcode.instr k) := by
  cases i with
  | halt | addl | insp | push | pop | ins | out => exact .inl ⟨rfl, rfl⟩
  | lodd k | stod k | addd k | subd k | jpos k | stodl k | loco k | jump k | jzer k | jneg k =>
    exact .inr ⟨rfl, k, rfl⟩

section
variable {op : Opcode}

theorem encode_of_formatN (hf : op.format = .n) (k : Word) : encode (op.instr k) = [op.word] := by
  cases op <;> cases hf <;> rfl

theorem encode_of_formatA (hf : op.format = .a) (k : Word) : encode (op.instr k) = [op.word, k] := by
  cases op <;> cases hf <;> rfl

/-! ### The decoder on each kind of word sequence -/

theorem decode_of_formatN (hf : op.format = .n) (rest : List Word) :
    decode (op.word :: rest) = .ok (op.instr 0, rest) := by
  simp only [decode, decodeOpcode_word, hf]

theorem decode_of_formatA (hf : op.format = .a) (k : Word) (rest : List Word) :
    decode (op.word :: k :: rest) = .ok (op.instr k, rest) := by
  simp only [decode, decodeOpcode_word, hf]

theorem decode_of_noOperandWord (hf : op.format = .a) : decode [op.word] = .error (.noOperandWord op) := by
  simp only [decode, decodeOpcode_word, hf]

end

theorem decode_of_illegal {w : Word} (hd : decodeOpcode w = none) (rest : List Word) :
    decode (w :: rest) = .error (.illegalOpcode w) := by
  simp only [decode, hd]

/-- All the word sequences there are, as the decoder tells them apart. -/
theorem words_cases (words : List Word) :
    words = [] ∨ (∃ w rest, decodeOpcode w = none ∧ words = w :: rest) ∨
      (∃ (op : Opcode) (rest : List Word), op.format = .n ∧ words = op.word :: rest) ∨
      (∃ op : Opcode, op.format = .a ∧ words = [op.word]) ∨
      ∃ (op : Opcode) (k : Word) (rest : List Word), op.format = .a ∧ words = op.word :: k :: rest := by
  cases words with
  | nil => exact .inl rfl
  | cons w rest =>
    cases hd : decodeOpcode w with
    | none => exact .inr (.inl ⟨w, rest, hd, rfl⟩)
    | some op =>
      obtain rfl := decodeOpcode_eq_some hd
      cases hf : op.format with
      | n => exact .inr (.inr (.inl ⟨op, rest, hf, rfl⟩))
      | a =>
        cases rest with
        | nil => exact .inr (.inr (.inr (.inl ⟨op, hf, rfl⟩)))
        | cons k rest => exact .inr (.inr (.inr (.inr ⟨op, k, rest, hf, rfl⟩)))

/-- The inversion of the decoder: what it read, if it answers an instruction. -/
theorem decode_eq_ok {words rest : List Word} {i : Instr} (h : decode words = .ok (i, rest)) :
    (∃ op : Opcode, op.format = .n ∧ i = op.instr 0 ∧ words = op.word :: rest) ∨
      ∃ (op : Opcode) (k : Word), op.format = .a ∧ i = op.instr k ∧ words = op.word :: k :: rest := by
  rcases words_cases words with rfl | ⟨w, rest', hd, rfl⟩ | ⟨op, rest', hf, rfl⟩ | ⟨op, hf, rfl⟩ | ⟨op, k, rest', hf, rfl⟩
  · cases h
  · rw [decode_of_illegal hd] at h
    cases h
  · rw [decode_of_formatN hf] at h
    cases h
    exact .inl ⟨op, hf, rfl, rfl⟩
  · rw [decode_of_noOperandWord hf] at h
    cases h
  · rw [decode_of_formatA hf] at h
    cases h
    exact .inr ⟨op, k, hf, rfl, rfl⟩

/-- A sequence is refused for its opcode word exactly when that word is no opcode, whatever follows it. -/
theorem decode_eq_illegalOpcode_iff {w : Word} {rest : List Word} :
    decode (w :: rest) = .error (.illegalOpcode w) ↔ decodeOpcode w = none := by
  refine ⟨fun h => ?_, fun hd => decode_of_illegal hd rest⟩
  rcases words_cases (w :: rest) with e | ⟨w', rest', hd, e⟩ | ⟨op, rest', hf, e⟩ | ⟨op, hf, e⟩ | ⟨op, k, rest', hf, e⟩
  · cases e
  · cases e
    exact hd
  · rw [e, decode_of_formatN hf] at h
    cases h
  · rw [e, decode_of_noOperandWord hf] at h
    cases h
  · rw [e, decode_of_formatA hf] at h
    cases h

/-! ### Decoding and encoding -/

theorem decode_encode (i : Instr) (rest : List Word) : decode (encode i ++ rest) = .ok (i, rest) := by
  rcases i.eq_opcode_instr with ⟨hf, hi⟩ | ⟨hf, k, hi⟩ <;> rw [hi]
  · rw [encode_of_formatN hf]
    exact decode_of_formatN hf rest
  · rw [encode_of_formatA hf]
    exact decode_of_formatA hf k rest

/-- The decoder has read the words of the instruction it answers. -/
theorem eq_encode_of_decode {words rest : List Word} {i : Instr} (h : decode words = .ok (i, rest)) :
    words = encode i ++ rest := by
  rcases decode_eq_ok h with ⟨op, hf, rfl, rfl⟩ | ⟨op, k, hf, rfl, rfl⟩
  · rw [encode_of_formatN hf, List.singleton_append]
  · rw [encode_of_formatA hf]
    rfl

/-- Settles O1, by the two directions of the round trip; the format of the instruction says how many words it has. -/
theorem decodeInvertsEncode : Obligations.DecodeInvertsEncode := by
  unfold Obligations.DecodeInvertsEncode
  intro words i rest
  constructor
  · intro h
    exact ⟨i.wf_eq_true, eq_encode_of_decode h⟩
  · rintro ⟨-, rfl⟩
    exact decode_encode i rest

/-- Settles O2: a nonzero upper byte puts the word above 0x00FF. -/
theorem illegalWordsAreRefused : Obligations.IllegalWordsAreRefused := by
  unfold Obligations.IllegalWordsAreRefused
  intro w rest
  have hrefused : decode (w :: rest) = .error (.illegalOpcode w) ↔ 0x0011 ≤ w.toNat :=
    decode_eq_illegalOpcode_iff.trans decodeOpcode_eq_none_iff
  refine ⟨hrefused, opcodeWordWf_iff, fun hupper => hrefused.mpr ?_⟩
  rw [Ne, upperByte_eq_zero_iff] at hupper
  omega

/-- Settles O3: seven round trips and three words that are no opcode. -/
theorem sampleWordsDecode : Obligations.SampleWordsDecode := by
  unfold Obligations.SampleWordsDecode
  exact ⟨decode_encode .halt [], decode_encode (.loco 5#16) [0x0002#16], decode_encode (.stod 100#16) [],
    decode_encode (.lodd 100#16) [], decode_encode (.jneg 6#16) [], decode_encode (.stodl 50#16) [], decode_encode .pop [],
    decode_of_illegal rfl [], decode_of_illegal rfl [], decode_of_illegal rfl []⟩

end Sys2Proof

namespace Sys2Proof.Machine

/-! ### The step that fetches an illegal word -/

/-- Only decode raises IllegalOpcode (60_exceptions.md R202). -/
theorem exec_raised_ne_illegalOpcode {i : Instr} {s t : State} (hq : s.raised = none) (he : exec i s = .next t) (w : Word) :
    t.raised ≠ some (.illegalOpcode w) := by
  intro hf
  rcases exec_raised_cases hq he hf with ⟨a, e⟩ | ⟨-, -, e⟩ | ⟨-, -, e⟩ <;> cases e

theorem step_raised_illegalOpcode {s t : State} {w : Word} (h : step s = .next t) (hf : t.raised = some (.illegalOpcode w)) :
    s.run = true ∧ s.pc.toNat ≤ 4095 ∧ w = s.mem.read s.pc.toNat ∧ decodeOpcode w = none := by
  rcases step_cases h with ⟨-, rfl⟩ | ⟨-, -, rfl⟩ | ⟨hr, hp, hd, rfl⟩ | ⟨op, -, -, -, -, hx⟩ | ⟨op, -, -, -, -, rfl⟩ |
    ⟨op, -, -, -, -, hx⟩
  · cases hf
  · cases hf
  · cases hf
    exact ⟨hr, hp, rfl, hd⟩
  · exact absurd hf (exec_raised_ne_illegalOpcode rfl hx w)
  · cases hf
  · exact absurd hf (exec_raised_ne_illegalOpcode rfl hx w)

/-- Settles O39: the step is the fetch followed by the fault, and no execute phase raises this fault. -/
theorem illegalOpcodeFaults : Obligations.IllegalOpcodeFaults := by
  unfold Obligations.IllegalOpcodeFaults
  constructor
  · intro s hr hp hw
    exact ⟨_, step_of_illegal hr hp (decodeOpcode_eq_none_iff.mpr hw), ⟨rfl, rfl⟩, rfl, fetched_pc_toNat hp, rfl, rfl, ⟨rfl, rfl⟩,
      rfl, rfl, fun _ => rfl, .of_access s hp rfl rfl rfl⟩
  · intro s t w h hf
    obtain ⟨hr, hp, hw, hd⟩ := step_raised_illegalOpcode h hf
    exact ⟨hr, hp, hw, decodeOpcode_eq_none_iff.mp hd⟩

/-! ### The instruction placed by `withFetchWord` -/

theorem withFetchWord_pc_toNat (s : State) (nbits w : Nat) : (s.withFetchWord nbits w).pc.toNat = s.placeAddress := by
  have := placeAddress_fits s
  exact Nat.mod_eq_of_lt (by omega)

/-- What a read gives in the state with an instruction placed. -/
theorem withFetchWord_read {s : State} (hm : s.mem.wf = true) (nbits w b : Nat) :
    (s.withFetchWord nbits w).mem.read b =
      if b = s.placeAddress + 1 then tableWord (w % 2 ^ nbits) 1
      else if b = s.placeAddress then tableWord (w % 2 ^ nbits) 0 else s.mem.read b := by
  have := placeAddress_fits s
  change ((s.mem.write _ _).write _ _).read b = _
  rw [Memory.read_write (Memory.write_wf _ (by omega) hm), Memory.read_write hm]

theorem withFetchWord_read_pc {s : State} (hm : s.mem.wf = true) (nbits w : Nat) :
    (s.withFetchWord nbits w).mem.read (s.withFetchWord nbits w).pc.toNat = tableWord (w % 2 ^ nbits) 0 := by
  rw [withFetchWord_pc_toNat, withFetchWord_read hm, if_neg (by omega), if_pos rfl]

theorem withFetchWord_read_pc_succ {s : State} (hm : s.mem.wf = true) (nbits w : Nat) :
    (s.withFetchWord nbits w).mem.read ((s.withFetchWord nbits w).pc.toNat + 1) = tableWord (w % 2 ^ nbits) 1 := by
  rw [withFetchWord_pc_toNat, withFetchWord_read hm, if_pos rfl]

theorem decode_of_decodeTableWord {nbits w : Nat} {i : Instr} (h : decodeTableWord nbits w = some i) :
    ∃ rest, decode [tableWord (w % 2 ^ nbits) 0, tableWord (w % 2 ^ nbits) 1] = .ok (i, rest) := by
  unfold decodeTableWord at h
  split at h
  · rename_i j rest hdecode
    cases h
    exact ⟨rest, hdecode⟩
  · cases h

/-- Settles O59: the step fetches the placed words, by the format of the instruction one of them or both. -/
theorem placedInstructionIsStepped : Obligations.PlacedInstructionIsStepped := by
  unfold Obligations.PlacedInstructionIsStepped
  intro s nbits w i hm h
  have hp : (s.withFetchWord nbits w).pc.toNat ≤ 4094 := by
    have := placeAddress_fits s
    rw [withFetchWord_pc_toNat]
    omega
  have hopcode := withFetchWord_read_pc hm nbits w
  have hoperand := withFetchWord_read_pc_succ hm nbits w
  obtain ⟨rest, hdecode⟩ := decode_of_decodeTableWord h
  rcases decode_eq_ok hdecode with ⟨op, hf, rfl, e⟩ | ⟨op, k, hf, rfl, e⟩
  · obtain ⟨hw0, -⟩ := List.cons.inj e
    exact ⟨fetched _, step_of_formatN rfl (by omega) (hopcode.trans hw0) hf, rfl, rfl, ⟨rfl, rfl⟩, rfl, rfl, rfl, rfl⟩
  · obtain ⟨hw0, e'⟩ := List.cons.inj e
    obtain ⟨hw1, -⟩ := List.cons.inj e'
    have hstep := step_of_formatA rfl hp (hopcode.trans hw0) hf
    rw [hoperand, hw1] at hstep
    exact ⟨fetchedOperand _, hstep, rfl, rfl, ⟨rfl, rfl⟩, rfl, rfl, rfl, rfl⟩

end Sys2Proof.Machine
end

section
/-! SUPPORT. The two word modes as a simulation (40_datapath.md R109): each update of the state keeps the agreement of a HW16 core and a
REF_UNBOUNDED core, a write of AC up to the flags, so each instruction, the step and the run do. -/

namespace Sys2Proof.Machine

/-- What one step keeps of the agreement of the two modes: all but the flags, and the flags too while the unbounded AC fits 16 bits. -/
structure AgreeWithinRange (s u : State) : Prop where
  butFlags : AgreeButFlags s u
  inRange : -32768 ≤ u.ac ∧ u.ac ≤ 32767 → ModesAgree s u

namespace ModesAgree

variable {s u : State}

theorem withinRange (h : ModesAgree s u) : AgreeWithinRange s u :=
  ⟨h.toAgreeButFlags, fun _ => h⟩

/-! One lemma per update. A write of SP has a condition: HW16 wraps what does not fit 16 bits. -/

theorem mirror (h : ModesAgree s u) (a : Nat) (w : Word) : ModesAgree (s.mirror a w) (u.mirror a w) :=
  { h with
    mar := by simp [mirroredAddress_everyAccess h.hwPolicy, mirroredAddress_everyAccess h.refPolicy]
    mbr := by simp [mirroredWord_everyAccess h.hwPolicy, mirroredWord_everyAccess h.refPolicy] }

theorem setWord (h : ModesAgree s u) (a : Nat) (w : Word) : ModesAgree (s.setWord a w) (u.setWord a w) :=
  { h with mem := by simp [h.mem] }

theorem setSP (h : ModesAgree s u) {v : Int} (hv : -32768 ≤ v ∧ v ≤ 32767) : ModesAgree (s.setSP v) (u.setSP v) :=
  { h with sp := by simp only [State.setSP_sp, wrap_of_range _ hv] }

theorem setSPFlags (h : ModesAgree s u) {v : Int} (hv : -32768 ≤ v ∧ v ≤ 32767) :
    ModesAgree (s.setSPFlags v) (u.setSPFlags v) :=
  { h with
    sp := by simp only [State.setSPFlags_sp, wrap_of_range _ hv]
    flagZ := by simp only [State.setSPFlags_flagZ, wrap_of_range _ hv]
    flagN := by simp only [State.setSPFlags_flagN, wrap_of_range _ hv] }

theorem setPC (h : ModesAgree s u) (w : Word) : ModesAgree (s.setPC w) (u.setPC w) :=
  { h with pc := rfl }

theorem advancePC (h : ModesAgree s u) : ModesAgree s.advancePC u.advancePC :=
  { h with pc := by simp [h.pc] }

theorem jumpIf (h : ModesAgree s u) (c : Bool) (w : Word) : ModesAgree (s.jumpIf c w) (u.jumpIf c w) := by
  cases c
  · exact h.advancePC
  · exact h.setPC w

theorem latchOpcode (h : ModesAgree s u) (w : Word) : ModesAgree (s.latchOpcode w) (u.latchOpcode w) :=
  { h.advancePC with ir := rfl }

theorem stop (h : ModesAgree s u) : ModesAgree s.stop u.stop :=
  { h with run := rfl }

theorem clearRaised (h : ModesAgree s u) : ModesAgree s.clearRaised u.clearRaised :=
  { h with raised := rfl }

theorem recordFault (h : ModesAgree s u) (f : Fault) : ModesAgree (s.recordFault f) (u.recordFault f) :=
  { h with faultRecord := by simp [h.faultRecord], raised := rfl }

theorem fetched (h : ModesAgree s u) : ModesAgree (fetched s) (fetched u) := by
  unfold Machine.fetched
  rw [h.mem, h.pc]
  exact (h.clearRaised.mirror _ _).latchOpcode _

theorem fetchedOperand (h : ModesAgree s u) : ModesAgree (fetchedOperand s) (fetchedOperand u) := by
  unfold Machine.fetchedOperand
  rw [h.mem, h.pc]
  exact h.fetched.mirror _ _

/-- The two cores push the same word, though not the same AC. -/
theorem pushed (h : ModesAgree s u) (hs : validAddress s.sp) : ModesAgree (pushed s.ac s) (pushed u.ac u) := by
  unfold Machine.pushed
  rw [h.ac, h.sp]
  exact ((h.setWord _ _).mirror _ _).setSP (by simp only [aluDec]; omega)

theorem popped (h : ModesAgree s u) (hs : -32768 ≤ s.sp + 1 ∧ s.sp + 1 ≤ 32767) : ModesAgree (popped s) (popped u) := by
  unfold Machine.popped
  rw [h.sp]
  exact h.setSP hs

/-- Two writes of AC of one residue: HW16 keeps the residue, and the whole value, flags included, where it fits. -/
theorem setAC (h : ModesAgree s u) {v v' : Int} (hv : mask16 v' = mask16 v) :
    AgreeWithinRange (s.setAC v) (u.setAC v') := by
  have hbut : AgreeButFlags (s.setAC v) (u.setAC v') :=
    { h with ac := by rw [State.setAC_ac, State.setAC_ac, mask16_wrap, mask16_wrap, hv] }
  refine ⟨hbut, fun hrange => ?_⟩
  rw [State.setAC_ac, h.refUnbounded, wrap_refUnbounded] at hrange
  have hstored : wrap u.config.wordMode v' = wrap s.config.wordMode v := by
    rw [h.refUnbounded, h.hw16, wrap_refUnbounded, wrap_hw16, ← hv, sext16_mask16 hrange]
  exact { hbut with
    flagZ := by rw [State.setAC_flagZ, State.setAC_flagZ, hstored]
    flagN := by rw [State.setAC_flagN, State.setAC_flagN, hstored] }

end ModesAgree

/-- Both outcomes are next states, and these agree, the flags within range. -/
def OutcomesAgree (x y : Host.Outcome State Fault Refusal) : Prop :=
  ∃ s' u', x = .next s' ∧ y = .next u' ∧ AgreeWithinRange s' u'

theorem OutcomesAgree.next {s u : State} (h : AgreeWithinRange s u) : OutcomesAgree (.next s) (.next u) :=
  ⟨s, u, rfl, rfl, h⟩

/-- Two outcomes chosen by one condition agree if they do on each side of it. -/
theorem OutcomesAgree.ite {c : Prop} [Decidable c] {x x' y y' : Host.Outcome State Fault Refusal}
    (h : c → OutcomesAgree x y) (h' : ¬ c → OutcomesAgree x' y') :
    OutcomesAgree (if c then x else x') (if c then y else y') := by
  by_cases hc : c
  · simpa only [if_pos hc] using h hc
  · simpa only [if_neg hc] using h' hc

/-- The low 16 bits of a sum are those of the sum of the low 16 bits (40_datapath.md R109). -/
theorem mask16_add_congr {u v : Int} (h : mask16 u = mask16 v) (x : Int) : mask16 (u + x) = mask16 (v + x) :=
  mask16_eq_iff.mpr (Int.ModEq.add_right x (mask16_eq_iff.mp h))

theorem mask16_sub_congr {u v : Int} (h : mask16 u = mask16 v) (x : Int) : mask16 (u - x) = mask16 (v - x) :=
  mask16_add_congr h (-x)

theorem mask16_aluOr_congr {u v : Int} (h : mask16 u = mask16 v) (m : Word) :
    mask16 (aluOr u m) = mask16 (aluOr v m) := by
  rw [mask16_aluOr, mask16_aluOr, h]

namespace ModesAgree

variable {s u : State}

/-- An instruction that reads `M[A]` and writes AC keeps the agreement if what it computes keeps the residue of AC. -/
theorem readDirect (h : ModesAgree s u) (a w : Word) {v v' : Int} (hv : mask16 v' = mask16 v) :
    OutcomesAgree
      (if a.toNat ≤ 4095 then .next ((s.mirror a.toNat w).setAC v).advancePC else .next (s.recordFault (.addressFault a.toNat)))
      (if a.toNat ≤ 4095 then .next ((u.mirror a.toNat w).setAC v').advancePC
        else .next (u.recordFault (.addressFault a.toNat))) :=
  .ite (fun _ => .next ((h.mirror _ _).advancePC.setAC hv)) (fun _ => .next (h.recordFault _).withinRange)

/-- The execute phase keeps the agreement of the two modes, if no increment of SP wraps. -/
theorem exec (h : ModesAgree s u) (hs : -32768 ≤ s.sp + 1 ∧ s.sp + 1 ≤ 32767) (i : Instr) :
    OutcomesAgree (exec i s) (exec i u) := by
  cases i with
  | lodd a =>
    simp only [exec_lodd, h.mem]
    exact h.readDirect a _ rfl
  | addd a =>
    simp only [exec_addd, h.mem]
    exact h.readDirect a _ (mask16_add_congr h.ac _)
  | subd a =>
    simp only [exec_subd, h.mem]
    exact h.readDirect a _ (mask16_sub_congr h.ac _)
  | stodl a =>
    simp only [exec_stodl, h.mem]
    exact h.readDirect a _ (mask16_aluOr_congr h.ac _)
  | stod a =>
    simp only [exec_stod, h.ac]
    exact .ite (fun _ => .next ((h.setWord _ _).mirror _ _).advancePC.withinRange)
      (fun _ => .next (h.recordFault _).withinRange)
  | addl =>
    simp only [exec_addl, h.mem, h.sp]
    exact .ite (fun _ => .next ((h.mirror _ _).setAC (mask16_add_congr h.ac _)))
      (fun _ => .next (h.recordFault _).withinRange)
  | insp =>
    simp only [exec_insp, h.sp]
    exact .next (h.setSPFlags hs).withinRange
  | push =>
    simp only [exec_push, h.sp]
    refine .ite (fun _ => .next (h.recordFault _).withinRange) fun hv => ?_
    have hp := h.pushed (not_not.mp hv)
    exact .ite (fun _ => .next (hp.recordFault _).withinRange) (fun _ => .next hp.withinRange)
  | pop =>
    have hp := h.popped hs
    simp only [exec_pop, h.mem, hp.sp]
    exact .ite (fun _ => .next (hp.recordFault _).withinRange) fun _ =>
      .ite (fun _ => .next (hp.recordFault _).withinRange) (fun _ => .next ((hp.mirror _ _).setAC rfl))
  | loco k => exact .next (h.advancePC.setAC rfl)
  | jump a => exact .next (h.setPC a).withinRange
  | jpos a =>
    simp only [exec_jpos, h.flagN, h.flagZ]
    exact .next (h.jumpIf _ a).withinRange
  | jzer a =>
    simp only [exec_jzer, h.flagZ]
    exact .next (h.jumpIf _ a).withinRange
  | jneg a =>
    simp only [exec_jneg, h.flagN]
    exact .next (h.jumpIf _ a).withinRange
  | halt => exact .next h.stop.withinRange
  | ins => exact .next h.withinRange
  | out => exact .next h.withinRange

/-- A step keeps the agreement of the two modes, if no increment of SP wraps: what decides its course is the same on both sides. -/
theorem step (h : ModesAgree s u) (hs : -32768 ≤ s.sp + 1 ∧ s.sp + 1 ≤ 32767) : OutcomesAgree (step s) (step u) := by
  have hpc : u.pc.toNat = s.pc.toNat := by rw [h.pc]
  have hopcode : u.mem.read u.pc.toNat = s.mem.read s.pc.toNat := by rw [h.mem, hpc]
  have hoperand : u.mem.read (u.pc.toNat + 1) = s.mem.read (s.pc.toNat + 1) := by rw [h.mem, hpc]
  rcases beginStep_cases s with ⟨hr, -⟩ | ⟨hr, hp, -⟩ | ⟨hr, hp, hd, -⟩ | ⟨op, hr, hp, hd, hf, -⟩ |
    ⟨op, hr, hp, hd, hf, -⟩ | ⟨op, hr, hp, hd, hf, -⟩ <;> have hru := h.run.trans hr
  · rw [step_of_halted hr, step_of_halted hru]
    exact .next h.clearRaised.withinRange
  · rw [step_of_offEnd hr hp, step_of_offEnd hru (by omega)]
    exact .next h.clearRaised.stop.withinRange
  · rw [step_of_illegal hr hp hd, step_of_illegal hru (by omega) (by rwa [hopcode]), hopcode]
    exact .next (h.fetched.recordFault _).withinRange
  all_goals
    have hw := decodeOpcode_eq_some hd
    have hwu := hopcode.trans hw
  · rw [step_of_formatN hr hp hw hf, step_of_formatN hru (by omega) hwu hf]
    exact h.fetched.exec hs _
  · rw [step_of_operandFault hr hp hw hf, step_of_operandFault hru (by omega) hwu hf]
    exact .next (h.fetched.recordFault _).withinRange
  · rw [step_of_formatA hr hp hw hf, step_of_formatA hru (by omega) hwu hf, hoperand]
    exact h.fetchedOperand.exec hs _

/-- The step from a state of the invariant: an SP that is not 32767 can be incremented. -/
theorem step_of_inv (h : ModesAgree s u) (hi : s.Inv) (hs : s.sp ≠ 32767) : OutcomesAgree (Machine.step s) (Machine.step u) := by
  have hrange := hi.spRange h.hw16
  exact h.step (by omega)

end ModesAgree

/-- Settles O49, by the simulation step. -/
theorem wordModesAgreeForOneStep : Obligations.WordModesAgreeForOneStep := by
  unfold Obligations.WordModesAgreeForOneStep
  intro s u h hi hs
  obtain ⟨s', u', hs', hu', hagree⟩ := h.step_of_inv hi hs
  exact ⟨s', u', hs', hu', hagree.butFlags, hagree.inRange⟩

/-- A run of one step more begins with that step. -/
theorem runSteps_succ {s t : State} (h : step s = .next t) (k : Nat) : runSteps (k + 1) s = runSteps k t := by
  rw [runSteps, h]

/-- Settles O50, by induction on the length of the run: the bounds on the first two states give the agreement after one step, and those on
the states after it are the bounds on the rest of the run. -/
theorem wordModesAgreeAlongRun : Obligations.WordModesAgreeAlongRun := by
  unfold Obligations.WordModesAgreeAlongRun
  intro n
  induction n with
  | zero => exact fun s u h _ _ => ⟨s, u, rfl, rfl, h⟩
  | succ n ih =>
    intro s u h hi hbounds
    obtain ⟨u₀, e₀, -, -, hsp⟩ := hbounds 0 (by omega)
    cases e₀
    obtain ⟨s', u', hs', hu', hagree⟩ := h.step_of_inv hi (by rw [← h.sp]; omega)
    obtain ⟨u₁, e₁, hlow, hhigh, -⟩ := hbounds 1 (by omega)
    rw [runSteps_succ hu'] at e₁
    cases e₁
    rw [runSteps_succ hs', runSteps_succ hu']
    refine ih s' u' (hagree.inRange ⟨hlow, hhigh⟩) (step_inv hi hs') fun k hk => ?_
    rw [← runSteps_succ hu']
    exact hbounds (k + 1) (by omega)

end Sys2Proof.Machine
end

section
/-! SUPPORT. The instructions of the data path: the direct instructions that read M[A] and write AC share one proof, INSP and POP follow
their equations, and a list of pushes is a fold of `pushed` (40_datapath.md R110-R114). -/

namespace Sys2Proof.Machine

/-! ### The direct instructions that read memory -/

/-- `i a` reads `m = M[a]` and writes `result AC m` to AC: the common shape of `exec_lodd`, `exec_addd`, `exec_subd` and `exec_stodl`. -/
def ReadsMemory (i : Word → Instr) (result : Int → Word → Int) : Prop :=
  ∀ (a : Word) (s : State), exec (i a) s =
    if a.toNat ≤ 4095 then
      .next ((s.mirror a.toNat (s.mem.read a.toNat)).setAC (result s.ac (s.mem.read a.toNat))).advancePC
    else .next (s.recordFault (.addressFault a.toNat))

theorem readsMemory_addd : ReadsMemory .addd fun ac m => ac + (m.toNat : Int) := exec_addd

theorem readsMemory_subd : ReadsMemory .subd fun ac m => ac - (m.toNat : Int) := exec_subd

theorem readsMemory_stodl : ReadsMemory .stodl fun ac m => Int.lor ac (m.toNat : Int) := by
  intro a s
  rw [exec_stodl, aluOr_eq_lor]

namespace ReadsMemory

variable {i : Word → Instr} {result : Int → Word → Int}

theorem dataAccessFaults (h : ReadsMemory i result) : DataAccessFaults i := by
  intro a s ha
  exact ⟨_, (h a s).trans (if_neg (by omega)), faultsOnly_recordFault _ s⟩

theorem writesAccumulator (h : ReadsMemory i result) : WritesAccumulator i result := by
  intro a s ha
  exact ⟨_, (h a s).trans (if_pos ha), rfl, ⟨rfl, rfl⟩, rfl, rfl, ⟨rfl, rfl, rfl⟩, ⟨rfl, rfl⟩, fun _ => rfl,
    .of_access s ha rfl rfl rfl⟩

end ReadsMemory

/-- Settles O9. -/
theorem adddAddsMemoryWord : Obligations.AdddAddsMemoryWord := by
  unfold Obligations.AdddAddsMemoryWord
  exact ⟨fun _ => rfl, operandFetchFaults rfl, readsMemory_addd.dataAccessFaults, readsMemory_addd.writesAccumulator⟩

/-- Settles O10. -/
theorem subdSubtractsMemoryWord : Obligations.SubdSubtractsMemoryWord := by
  unfold Obligations.SubdSubtractsMemoryWord
  exact ⟨fun _ => rfl, operandFetchFaults rfl, readsMemory_subd.dataAccessFaults, readsMemory_subd.writesAccumulator⟩

/-- Settles O11: the model's OR is Mathlib's, by `aluOr_eq_lor`. -/
theorem stodlOrsMemoryWord : Obligations.StodlOrsMemoryWord := by
  unfold Obligations.StodlOrsMemoryWord
  exact ⟨fun _ => rfl, operandFetchFaults rfl, readsMemory_stodl.dataAccessFaults, readsMemory_stodl.writesAccumulator⟩

/-! ### INSP and POP -/

/-- Settles O18: INSP is one update of the state. -/
theorem inspIncrementsSp : Obligations.InspIncrementsSp := by
  unfold Obligations.InspIncrementsSp
  exact ⟨rfl, fun s => ⟨_, exec_insp s, rfl, ⟨rfl, rfl⟩, rfl, rfl, ⟨rfl, rfl, rfl⟩, ⟨rfl, rfl⟩, fun _ => rfl, ⟨rfl, rfl, rfl⟩⟩⟩

theorem exec_pop_valid {s : State} (h : validAddress (popped s).sp) :
    exec .pop s = .next (((popped s).mirror (popped s).sp.toNat (s.mem.read (popped s).sp.toNat)).setAC
      (zext16 (s.mem.read (popped s).sp.toNat))) := by
  rw [exec_pop, if_neg (by omega), if_neg (by omega)]

theorem exec_pop_above {s : State} (h : 4096 ≤ (popped s).sp) :
    exec .pop s = .next ((popped s).recordFault (.stackUnderflow (popped s).sp)) := by
  rw [exec_pop, if_pos h]

theorem exec_pop_below {s : State} (h : (popped s).sp < 0) :
    exec .pop s = .next ((popped s).recordFault (.addressFault (popped s).sp)) := by
  rw [exec_pop, if_neg (by omega), if_pos h]

/-- Settles O20, by the three ranges of the incremented SP. -/
theorem popIncrementsAndLoads : Obligations.PopIncrementsAndLoads := by
  unfold Obligations.PopIncrementsAndLoads
  refine ⟨rfl, fun s n hn => ?_⟩
  rw [← popped_sp] at hn
  subst hn
  refine ⟨fun h0 h4095 => ?_, fun habove => ?_, fun hbelow => ?_⟩
  · exact ⟨_, exec_pop_valid ⟨h0, h4095⟩, rfl, ⟨rfl, rfl⟩, rfl, rfl, ⟨rfl, rfl, rfl⟩, ⟨rfl, rfl⟩, fun _ => rfl,
      .of_access (popped s) (by omega) rfl rfl rfl⟩
  · exact ⟨_, exec_pop_above habove, ⟨rfl, rfl⟩, rfl, rfl, ⟨rfl, rfl⟩, rfl, ⟨rfl, rfl, rfl⟩, fun _ => rfl, ⟨rfl, rfl, rfl⟩⟩
  · exact ⟨_, exec_pop_below hbelow, ⟨rfl, rfl⟩, rfl, rfl, ⟨rfl, rfl⟩, rfl, ⟨rfl, rfl, rfl⟩, fun _ => rfl, ⟨rfl, rfl, rfl⟩⟩

/-! ### PUSH and then POP -/

theorem exec_push_of_room {s : State} (h1 : 1 ≤ s.sp) (h4095 : s.sp ≤ 4095) : exec .push s = .next (pushed s.ac s) := by
  rw [exec_push, if_neg (by omega), if_neg (by omega)]

/-- A pop moves SP back to where the push found it. -/
theorem popped_pushed_sp {s : State} (v : Int) (hs : validAddress s.sp) : (popped (pushed v s)).sp = s.sp := by
  rw [popped_sp, pushed_sp hs, Int.sub_add_cancel]
  exact wrap_of_range _ (by omega)

/-- Settles O52. -/
theorem popUndoesPush : Obligations.PopUndoesPush := by
  unfold Obligations.PopUndoesPush
  intro s t hm h1 h4095 he
  have hs : validAddress s.sp := by omega
  rw [exec_push_of_room h1 h4095] at he
  cases he
  have hsp := popped_pushed_sp s.ac hs
  have hword : (pushed s.ac s).mem.read s.sp.toNat = mask16 s.ac := read_pushed_self hm s.ac
  have hpop := exec_pop_valid (s := pushed s.ac s) (by rwa [hsp])
  rw [hsp, hword, zext16_mask16] at hpop
  refine ⟨?_, _, hpop, hsp, rfl, fun hmode hi => ?_⟩
  · rw [pushed_sp hs, Int.sub_add_cancel]
    exact hword
  · change wrap s.config.wordMode (s.ac % 65536) = s.ac
    rw [hmode]
    exact ((emod_eq_iff_eq_wrap_hw16 _ (hi.acRange hmode)).mp (Int.emod_emod_of_dvd _ dvd_rfl).symm).symm

/-! ### Pushes one after the other -/

/-- A push with SP in 1..4095 completes. -/
theorem push_of_room {s : State} (v : Int) (h1 : 1 ≤ s.sp) (h4095 : s.sp ≤ 4095) :
    push v s = .done (mask16 v) (pushed v s) := by
  rcases push_cases v s with ⟨hno, -⟩ | ⟨-, -, e⟩ | ⟨h0, -⟩
  · omega
  · exact e
  · omega

/-- A push at SP = 0 overflows, its word written. -/
theorem push_at_zero {s : State} (v : Int) (h0 : s.sp = 0) :
    push v s = .raised (.stackOverflow (-1)) (pushed v s) := by
  rcases push_cases v s with ⟨hno, -⟩ | ⟨-, h1, -⟩ | ⟨-, e⟩
  · omega
  · omega
  · exact e

/-- The state after the values have been pushed one after the other, whatever faults that raises. -/
def pushedAll (vs : List Int) (s : State) : State :=
  vs.foldl (fun t v => pushed v t) s

@[simp] theorem pushedAll_nil (s : State) : pushedAll [] s = s := rfl

@[simp] theorem pushedAll_cons (v : Int) (vs : List Int) (s : State) :
    pushedAll (v :: vs) s = pushedAll vs (pushed v s) := rfl

/-- After a push that completes, the rest is pushed. -/
theorem pushAll_cons {v : Int} {vs : List Int} {s t : State} {w : Word} (hvs : vs ≠ []) (h : push v s = .done w t) :
    pushAll (v :: vs) s = pushAll vs t := by
  cases vs with
  | nil => exact absurd rfl hvs
  | cons v' vs =>
    rw [pushAll, h]
    exact List.cons_ne_nil v' vs

/-- Each push takes one word of the stack. -/
theorem pushedAll_sp {vs : List Int} {s : State} (hlen : vs.length ≤ s.sp + 1) (hs : s.sp ≤ 4095) :
    (pushedAll vs s).sp = s.sp - vs.length := by
  induction vs generalizing s with
  | nil => simp
  | cons v vs ih =>
    rw [List.length_cons] at hlen ⊢
    have hsp := pushed_sp (v := v) (s := s) (by omega)
    rw [pushedAll_cons, ih (by omega) (by omega)]
    omega

/-- Pushes write at SP and below it. -/
theorem read_pushedAll_of_gt {vs : List Int} {s : State} (hm : s.mem.wf = true) (hlen : vs.length ≤ s.sp + 1)
    (hs : s.sp ≤ 4095) {b : Nat} (hb : s.sp < b) : (pushedAll vs s).mem.read b = s.mem.read b := by
  induction vs generalizing s with
  | nil => rfl
  | cons v vs ih =>
    rw [List.length_cons] at hlen
    have hv : validAddress s.sp := by omega
    have hsp := pushed_sp (v := v) hv
    rw [pushedAll_cons, ih (pushed_wf v hv hm) (by omega) (by omega) (by omega)]
    exact read_pushed_of_ne hm v (by omega)

/-- The value at place `j` of the list is `j` words below the first one. -/
theorem read_pushedAll {vs : List Int} {s : State} (hm : s.mem.wf = true) (hlen : vs.length ≤ s.sp + 1)
    (hs : s.sp ≤ 4095) {j : Nat} (hj : j < vs.length) :
    (pushedAll vs s).mem.read (s.sp.toNat - j) = mask16 (vs.getD j 0) := by
  induction vs generalizing s j with
  | nil => simp at hj
  | cons v vs ih =>
    rw [List.length_cons] at hlen hj
    have hv : validAddress s.sp := by omega
    have hsp := pushed_sp (v := v) hv
    have hwf := pushed_wf v hv hm
    rw [pushedAll_cons]
    cases j with
    | zero =>
      rw [Nat.sub_zero, read_pushedAll_of_gt hwf (by omega) (by omega) (by omega)]
      exact read_pushed_self hm v
    | succ j =>
      have haddr : s.sp.toNat - (j + 1) = (pushed v s).sp.toNat - j := by omega
      rw [haddr, List.getD_cons_succ]
      exact ih hwf (by omega) (by omega) (by omega)

/-- As many pushes as SP counts complete. -/
theorem pushAll_of_room {vs : List Int} {s : State} (hlen : vs.length ≤ s.sp) (hs : s.sp ≤ 4095) :
    ∃ w, pushAll vs s = .done w (pushedAll vs s) := by
  induction vs generalizing s with
  | nil => exact ⟨_, rfl⟩
  | cons v vs ih =>
    rw [List.length_cons] at hlen
    have hpush := push_of_room v (s := s) (by omega) hs
    by_cases hvs : vs = []
    · subst hvs
      exact ⟨_, hpush⟩
    · have hsp := pushed_sp (v := v) (s := s) (by omega)
      rw [pushAll_cons hvs hpush]
      exact ih (by omega) (by omega)

/-- One push more overflows: it is the push at SP = 0. -/
theorem pushAll_overflow {vs : List Int} {s : State} (hlen : vs.length = s.sp + 1) (h0 : 0 ≤ s.sp) (hs : s.sp ≤ 4095) :
    pushAll vs s = .raised (.stackOverflow (-1)) (pushedAll vs s) := by
  induction vs generalizing s with
  | nil =>
    rw [List.length_nil] at hlen
    omega
  | cons v vs ih =>
    rw [List.length_cons] at hlen
    by_cases hvs : vs = []
    · subst hvs
      exact push_at_zero v (by simpa using hlen.symm)
    · have hpos := List.length_pos_of_ne_nil hvs
      have hsp := pushed_sp (v := v) (s := s) (by omega)
      rw [pushAll_cons hvs (push_of_room v (by omega) hs)]
      exact ih (by omega) (by omega) (by omega)

/-- Settles O53, by the laws of a list of pushes at SP = 4095. -/
theorem stackOverflowsOnPush4096 : Obligations.StackOverflowsOnPush4096 := by
  unfold Obligations.StackOverflowsOnPush4096
  refine ⟨fun vs s hm hs _ hlen => ?_, fun s hs => ?_⟩
  · have hroom : (vs.length : Int) ≤ s.sp + 1 := by omega
    have hsp := pushedAll_sp hroom (by omega)
    rw [hs] at hsp
    refine ⟨pushedAll vs s, fun h => pushAll_of_room (by omega) (by omega),
      fun h => pushAll_overflow (by omega) (by omega) (by omega), hsp, fun k hk hk' => ?_⟩
    have hread := read_pushedAll hm hroom (by omega) (j := k - 1) (by omega)
    have haddr : s.sp.toNat - (k - 1) = 4096 - k := by omega
    rwa [haddr] at hread
  · have hsp : (popped s).sp = 4096 := by rw [popped_sp, hs]; exact wrap_of_range _ (by omega)
    have hpop := exec_pop_above (s := s) (by omega)
    rw [hsp] at hpop
    exact ⟨_, hpop, rfl, rfl⟩

end Sys2Proof.Machine
end

section
/-! SUPPORT. The outcome of a step: what a faulting step can have done, said once, and from it the state it leaves (60_exceptions.md R206);
PC after a step that faults, falls through or jumps; and what the host is told (41_cycle.md R130-R140). -/

namespace Sys2Proof.Machine

/-! ### LODD -/

theorem readsMemory_lodd : ReadsMemory .lodd fun _ m => (m.toNat : Int) := exec_lodd

/-- Settles O7: LODD is one more direct instruction that reads M[A]. -/
theorem loddLoadsAccumulator : Obligations.LoddLoadsAccumulator := by
  unfold Obligations.LoddLoadsAccumulator
  exact ⟨fun _ => rfl, operandFetchFaults rfl, readsMemory_lodd.dataAccessFaults, readsMemory_lodd.writesAccumulator⟩

/-! ### Every step answers a next state -/

/-- An instruction with an access answers what finishes the access; the others answer a state outright. -/
theorem exec_next (i : Instr) (s : State) : ∃ t, exec i s = .next t := by
  cases i with
  | lodd | stod | addd | subd | stodl | addl | push | pop => exact Access.finish_next _ _
  | loco | jpos | jump | jzer | jneg | insp | halt | ins | out => exact ⟨_, rfl⟩

theorem step_next (s : State) : ∃ t, step s = .next t := by
  unfold step
  cases beginStep s with
  | instr i t => exact exec_next i t
  | stopped t => exact ⟨t, rfl⟩
  | raised f t => exact ⟨_, takeFault_eq f t⟩

/-- No step changes the parameters (00_scope.md R9). -/
theorem step_config {s t : State} (h : step s = .next t) : t.config = s.config := by
  rcases step_cases h with ⟨-, rfl⟩ | ⟨-, -, rfl⟩ | ⟨-, -, -, rfl⟩ | ⟨op, -, -, -, -, hx⟩ | ⟨op, -, -, -, -, rfl⟩ |
    ⟨op, -, -, -, -, hx⟩
  · rfl
  · rfl
  · rfl
  · exact (executes hx).config
  · rfl
  · exact (executes hx).config

/-- Settles O28. -/
theorem everyStepAnswersNext : Obligations.EveryStepAnswersNext := by
  unfold Obligations.EveryStepAnswersNext
  constructor
  · intro s
    obtain ⟨t, h⟩ := step_next s
    exact ⟨t, h, step_config h⟩
  · intro i s
    obtain ⟨t, h⟩ := exec_next i s
    exact ⟨t, h, (executes h).config⟩

/-! ### The steps that fetch nothing -/

/-- Settles O30. -/
theorem offEndStopsCleanly : Obligations.OffEndStopsCleanly := by
  unfold Obligations.OffEndStopsCleanly
  intro s hr hp
  exact ⟨_, step_of_offEnd hr hp, rfl, rfl, rfl, rfl, rfl, rfl, rfl, rfl, ⟨rfl, rfl⟩, ⟨rfl, rfl, rfl⟩, fun _ => rfl, rfl⟩

theorem State.clearRaised_eq_self {s : State} (h : s.raised = none) : s.clearRaised = s := by
  unfold State.clearRaised
  rw [← h]

/-- Stopped is RUN false with no fault to report (41_cycle.md R138). -/
theorem State.stepResult_eq_stopped_iff {s : State} : s.stepResult = .stopped ↔ s.run = false ∧ s.raised = none := by
  unfold State.stepResult
  cases s.raised <;> cases s.run <;> simp

/-- Settles O29. -/
theorem haltedStepDoesNothing : Obligations.HaltedStepDoesNothing := by
  unfold Obligations.HaltedStepDoesNothing
  refine ⟨fun s hr => ?_, fun c => ⟨step_of_halted rfl, fun _ => rfl, rfl⟩⟩
  exact ⟨_, step_of_halted hr, rfl, State.stepResult_eq_stopped_iff.mpr ⟨hr, rfl⟩,
    fun hi => State.clearRaised_eq_self (hi.haltedQuiet hr)⟩

/-! ### The step that executes an instruction -/

/-- Settles O27: one word is fetched for Format N and two for Format A. -/
theorem stepRunsDecodedInstruction : Obligations.StepRunsDecodedInstruction := by
  unfold Obligations.StepRunsDecodedInstruction
  intro s i rest hr hlen hdecode
  rcases decode_eq_ok hdecode with ⟨op, hf, rfl, e⟩ | ⟨op, k, hf, rfl, e⟩
  · obtain ⟨hw, -⟩ := List.cons.inj e
    rw [encode_of_formatN hf] at hlen ⊢
    have hp : s.pc.toNat ≤ 4095 := by
      rw [List.length_singleton] at hlen
      omega
    exact ⟨fetched s, step_of_formatN hr hp hw hf, rfl, rfl, rfl, rfl, rfl, rfl, ⟨rfl, rfl⟩, rfl, rfl, rfl,
      .of_access s hp rfl rfl rfl⟩
  · obtain ⟨hw, e'⟩ := List.cons.inj e
    obtain ⟨rfl, -⟩ := List.cons.inj e'
    rw [encode_of_formatA hf] at hlen ⊢
    have hp : s.pc.toNat ≤ 4094 := by simpa using hlen
    exact ⟨fetchedOperand s, step_of_formatA hr hp hw hf, rfl, rfl, rfl, rfl, rfl, rfl, ⟨rfl, rfl⟩, rfl, rfl, rfl,
      .of_access (fetched s) (by omega) rfl rfl rfl⟩

/-! ### What a faulting step can have done -/

/-- `ExecFaults s i f t`: the execute phase of `i` from `s` can raise `f` and leave `t`. -/
inductive ExecFaults (s : State) : Instr → Fault → State → Prop where
  /-- The data access, or ADDL's at SP, faults before anything changes. -/
  | access {i : Instr} {a : Int} (hop : i.opcode ∈ accessFaulters) (hpush : i.opcode ≠ .push) :
      ExecFaults s i (.addressFault a) (s.recordFault (.addressFault a))
  | pushAccess (hs : ¬ validAddress s.sp) :
      ExecFaults s .push (.addressFault s.sp) (s.recordFault (.addressFault s.sp))
  | pushOverflow (h0 : s.sp = 0) :
      ExecFaults s .push (.stackOverflow (-1)) ((pushed s.ac s).recordFault (.stackOverflow (-1)))
  | popUnderflow (h : 4096 ≤ (popped s).sp) :
      ExecFaults s .pop (.stackUnderflow (popped s).sp) ((popped s).recordFault (.stackUnderflow (popped s).sp))
  | popAccess (h : (popped s).sp < 0) :
      ExecFaults s .pop (.addressFault (popped s).sp) ((popped s).recordFault (.addressFault (popped s).sp))

theorem exec_push_faults {s t : State} {f : Fault} (hq : s.raised = none) (he : exec .push s = .next t)
    (hf : t.raised = some f) : ExecFaults s .push f t := by
  rw [exec_push] at he
  split at he
  · cases he
    cases hf
    exact .pushAccess ‹_›
  · split at he <;> cases he
    · cases hf
      exact .pushOverflow ‹_›
    · cases hq.symm.trans hf

theorem exec_pop_faults {s t : State} {f : Fault} (hq : s.raised = none) (he : exec .pop s = .next t)
    (hf : t.raised = some f) : ExecFaults s .pop f t := by
  rw [exec_pop] at he
  split at he
  · cases he
    cases hf
    exact .popUnderflow ‹_›
  · split at he <;> cases he
    · cases hf
      exact .popAccess ‹_›
    · cases hq.symm.trans hf

/-- The inversion of an execute phase that faults. -/
theorem exec_faults {i : Instr} {s t : State} {f : Fault} (hq : s.raised = none) (he : exec i s = .next t)
    (hf : t.raised = some f) : ExecFaults s i f t := by
  by_cases hi : i = .push
  · subst hi
    exact exec_push_faults hq he hf
  · cases executes he with
    | accessFault hop =>
      cases hf
      refine .access hop fun hpush => hi ?_
      rcases i.eq_opcode_instr with ⟨-, e⟩ | ⟨-, k, e⟩ <;> rw [e, hpush] <;> rfl
    | overflows => exact absurd rfl hi
    | popFault => exact exec_pop_faults hq he hf
    | _ => cases hq.symm.trans hf

/-- `StepFaults s f t`: a running step from `s`, PC in 0..4095, can raise `f` and leave `t` (60_exceptions.md R201-R204, R206). Of a data
access, and of ADDL's at SP, it does not say which address is outside the memory. -/
inductive StepFaults (s : State) : Fault → State → Prop where
  | illegal (hd : decodeOpcode (s.mem.read s.pc.toNat) = none) :
      StepFaults s (.illegalOpcode (s.mem.read s.pc.toNat))
        ((fetched s).recordFault (.illegalOpcode (s.mem.read s.pc.toNat)))
  | operandFetch {op : Opcode} (hw : s.mem.read s.pc.toNat = op.word) (hformat : op.format = .a) (hp : s.pc.toNat = 4095) :
      StepFaults s (.addressFault 4096) ((fetched s).recordFault (.addressFault 4096))
  | dataAccess {op : Opcode} {a : Int} (hw : s.mem.read s.pc.toNat = op.word) (hformat : op.format = .a)
      (hp : s.pc.toNat ≤ 4094) : StepFaults s (.addressFault a) ((fetchedOperand s).recordFault (.addressFault a))
  | slotAccess {a : Int} (hw : s.mem.read s.pc.toNat = Opcode.addl.word) :
      StepFaults s (.addressFault a) ((fetched s).recordFault (.addressFault a))
  | pushAccess (hw : s.mem.read s.pc.toNat = Opcode.push.word) (hs : ¬ validAddress s.sp) :
      StepFaults s (.addressFault s.sp) ((fetched s).recordFault (.addressFault s.sp))
  | pushOverflow (hw : s.mem.read s.pc.toNat = Opcode.push.word) (h0 : s.sp = 0) :
      StepFaults s (.stackOverflow (-1)) ((pushed s.ac (fetched s)).recordFault (.stackOverflow (-1)))
  | popUnderflow {n : Int} (hw : s.mem.read s.pc.toNat = Opcode.pop.word) (hn : n = wrap s.config.wordMode (s.sp + 1))
      (h : 4096 ≤ n) : StepFaults s (.stackUnderflow n) ((popped (fetched s)).recordFault (.stackUnderflow n))
  | popAccess {n : Int} (hw : s.mem.read s.pc.toNat = Opcode.pop.word) (hn : n = wrap s.config.wordMode (s.sp + 1))
      (h : n < 0) : StepFaults s (.addressFault n) ((popped (fetched s)).recordFault (.addressFault n))

/-- Of the instructions with no operand whose access can fault at once, ADDL is the one beside PUSH. -/
theorem eq_addl_of_mem_accessFaulters :
    ∀ op ∈ accessFaulters, op.format = .n → op ≠ .push → op = .addl := by decide

theorem StepFaults.of_formatN {s t : State} {op : Opcode} {f : Fault} (hw : s.mem.read s.pc.toNat = op.word)
    (hformat : op.format = .n) (hx : ExecFaults (fetched s) (op.instr 0) f t) : StepFaults s f t := by
  generalize hi : op.instr 0 = i at hx
  obtain rfl : op = i.opcode := Opcode.eq_of_instr hi
  cases hx with
  | access hop hpush =>
    rw [eq_addl_of_mem_accessFaulters _ hop hformat hpush] at hw
    exact .slotAccess hw
  | pushAccess hs => exact .pushAccess hw hs
  | pushOverflow h0 => exact .pushOverflow hw h0
  | popUnderflow h => exact .popUnderflow hw rfl h
  | popAccess h => exact .popAccess hw rfl h

theorem StepFaults.of_formatA {s t : State} {op : Opcode} {k : Word} {f : Fault} (hw : s.mem.read s.pc.toNat = op.word)
    (hformat : op.format = .a) (hp : s.pc.toNat ≤ 4094) (hx : ExecFaults (fetchedOperand s) (op.instr k) f t) :
    StepFaults s f t := by
  generalize hi : op.instr k = i at hx
  obtain rfl : op = i.opcode := Opcode.eq_of_instr hi
  cases hx with
  | access => exact .dataAccess hw hformat hp
  | pushAccess | pushOverflow | popUnderflow | popAccess => cases hformat

/-- The inversion of a faulting step. -/
theorem step_faults {s t : State} {f : Fault} (h : step s = .next t) (hf : t.raised = some f) :
    s.run = true ∧ s.pc.toNat ≤ 4095 ∧ StepFaults s f t := by
  rcases step_cases h with ⟨-, rfl⟩ | ⟨-, -, rfl⟩ | ⟨hr, hp, hd, rfl⟩ | ⟨op, hr, hp, hw, hformat, hx⟩ |
    ⟨op, hr, hp, hw, hformat, rfl⟩ | ⟨op, hr, hp, hw, hformat, hx⟩
  · cases hf
  · cases hf
  · cases hf
    exact ⟨hr, hp, .illegal hd⟩
  · exact ⟨hr, hp, .of_formatN hw hformat (exec_faults rfl hx hf)⟩
  · cases hf
    exact ⟨hr, hp.le, .operandFetch hw hformat hp⟩
  · exact ⟨hr, by omega, .of_formatA hw hformat hp (exec_faults rfl hx hf)⟩

namespace StepFaults

variable {s t : State} {f : Fault}

/-! What every fault leaves as the fetch left it (60_exceptions.md R206). -/

theorem pc (h : StepFaults s f t) : t.pc = (fetched s).pc := by
  cases h <;> rfl

theorem ir (h : StepFaults s f t) : t.ir = s.mem.read s.pc.toNat := by
  cases h <;> rfl

theorem ac (h : StepFaults s f t) : t.ac = s.ac := by
  cases h <;> rfl

theorem sameFlags (h : StepFaults s f t) : SameFlags s t := by
  cases h <;> exact ⟨rfl, rfl⟩

theorem run (h : StepFaults s f t) : t.run = s.run := by
  cases h <;> rfl

end StepFaults

/-! ### The result of a step -/

theorem State.stepResult_eq_raised_iff {s : State} {f : Fault} : s.stepResult = .raised f ↔ s.raised = some f := by
  unfold State.stepResult
  cases s.raised <;> cases s.run <;> simp

theorem State.stepResult_eq_continued_iff {s : State} : s.stepResult = .continued ↔ s.run = true ∧ s.raised = none := by
  unfold State.stepResult
  cases s.raised <;> cases s.run <;> simp

/-- A step that leaves the engine Halted raised nothing: a fault leaves RUN true (60_exceptions.md R207). -/
theorem step_raised_eq_none_of_halted {s t : State} (h : step s = .next t) (hr : t.run = false) : t.raised = none := by
  refine Option.eq_none_iff_forall_ne_some.mpr fun f hf => ?_
  obtain ⟨hrun, -, hx⟩ := step_faults h hf
  simp [hx.run, hrun] at hr

/-- Settles O33: Stopped is RUN false after the step, and O36 says when that is. -/
theorem stepResultClassifies : Obligations.StepResultClassifies := by
  unfold Obligations.StepResultClassifies
  intro s t h
  refine ⟨?_, fun f => State.stepResult_eq_raised_iff, State.stepResult_eq_continued_iff⟩
  obtain ⟨hstopped, -⟩ := runIsClearedByHaltAndOffEndOnly
  rw [State.stepResult_eq_stopped_iff, and_iff_left_of_imp (step_raised_eq_none_of_halted h)]
  exact hstopped s t h

/-! ### PC after a step -/

/-- The jumps that are taken from `s` (43_jumps.md R170-R173). -/
def JumpTaken (op : Opcode) (s : State) : Prop :=
  op = .jump ∨ (op = .jpos ∧ s.flagN = false ∧ s.flagZ = false) ∨ (op = .jzer ∧ s.flagZ = true) ∨
    (op = .jneg ∧ s.flagN = true)

/-- A jump is `jumpIf` on whether it is taken. -/
theorem exec_jump_eq {op : Opcode} (hop : op ∈ jumpOpcodes) (k : Word) (s : State) :
    ∃ c, exec (op.instr k) s = .next (s.jumpIf c k) ∧ (c = true ↔ JumpTaken op s) := by
  cases op with
  | jump => exact ⟨true, exec_jump k s, by simp [JumpTaken]⟩
  | jpos => exact ⟨_, exec_jpos k s, by simp [JumpTaken]⟩
  | jzer => exact ⟨_, exec_jzer k s, by simp [JumpTaken]⟩
  | jneg => exact ⟨_, exec_jneg k s, by simp [JumpTaken]⟩
  | _ => exact absurd hop (by decide)

theorem JumpTaken.mem_jumpOpcodes {op : Opcode} {s : State} (h : JumpTaken op s) : op ∈ jumpOpcodes := by
  rcases h with rfl | ⟨rfl, -⟩ | ⟨rfl, -⟩ | ⟨rfl, -⟩ <;> decide

theorem format_of_mem_idleOpcodes : ∀ op ∈ idleOpcodes, op.format = .n := by decide

/-- The execute phase of a Format A instruction that is no jump moves PC past the operand, unless it faults (41_cycle.md R135). -/
theorem Executes.pc_of_formatA {i : Instr} {s t : State} (h : Executes s i t) (hformat : i.opcode.format = .a)
    (hjump : i.opcode ∉ jumpOpcodes) (ht : t.raised = none) : t.pc = s.pc + 1#16 := by
  cases h with
  | readsDirect | loadsConstant | stores => rfl
  | jumps hop => exact absurd hop hjump
  | accessFault => cases ht
  | idles hop => simp [format_of_mem_idleOpcodes _ hop] at hformat
  | _ => cases hformat

/-- PC after the execute phase of a Format A instruction that raises nothing: the operand of a taken jump, or past the operand. -/
theorem exec_pc_of_formatA {op : Opcode} {k : Word} {s t : State} (hformat : op.format = .a)
    (he : exec (op.instr k) s = .next t) (ht : t.raised = none) :
    (JumpTaken op s → t.pc = k) ∧ (¬ JumpTaken op s → t.pc = s.pc + 1#16) := by
  by_cases hop : op ∈ jumpOpcodes
  · obtain ⟨c, hjump, hc⟩ := exec_jump_eq hop k s
    rw [hjump] at he
    cases he
    rw [← hc, State.jumpIf_eq]
    cases c <;> simp
  · refine ⟨fun htaken => absurd htaken.mem_jumpOpcodes hop, fun _ => ?_⟩
    exact (executes he).pc_of_formatA (by rwa [Opcode.instr_opcode]) (by rwa [Opcode.instr_opcode]) ht

/-- Settles O32: a fault leaves PC where the fetch put it, and so does Format N; the rest is `exec_pc_of_formatA`. -/
theorem pcAdvancesPastInstruction : Obligations.PcAdvancesPastInstruction := by
  unfold Obligations.PcAdvancesPastInstruction
  rintro s t op ⟨hr, hp, hw⟩ h
  refine ⟨fun hne => ?_, fun _ hformat => ?_, fun ht hformat => ?_⟩
  · obtain ⟨f, hf⟩ := Option.ne_none_iff_exists'.mp hne
    obtain ⟨-, -, hx⟩ := step_faults h hf
    rw [hx.pc, fetched_pc_toNat hp]
  · rw [step_of_formatN hr hp hw hformat] at h
    rw [(executes h).pc_eq (by rwa [Opcode.instr_opcode]), fetched_pc_toNat hp]
  · have hp' : s.pc.toNat ≤ 4094 := by
      by_contra hlast
      rw [step_of_operandFault hr (by omega) hw hformat] at h
      cases h
      cases ht
    rw [step_of_formatA hr hp' hw hformat] at h
    obtain ⟨htaken, hnot⟩ := exec_pc_of_formatA hformat h ht
    split
    · exact htaken ‹_›
    · have hpc := hnot ‹_›
      rw [fetchedOperand_pc] at hpc
      bv_omega

/-! ### The state after a faulting step -/

/-- Format A is the opcode words 0x0001..0x000A (30_encoding.md R86). -/
theorem Opcode.format_eq_a_iff (op : Opcode) : op.format = .a ↔ 0x0001 ≤ op.word.toNat ∧ op.word.toNat ≤ 0x000A := by
  cases op <;> decide

/-- The step pushes at SP = 0, so its last access is the write of M[0]. -/
def PushesAtZero (s : State) : Prop :=
  s.mem.read s.pc.toNat = 0x000D#16 ∧ s.sp = 0

/-- The step fetches an operand word. -/
def FetchesOperand (s : State) : Prop :=
  0x0001 ≤ (s.mem.read s.pc.toNat).toNat ∧ (s.mem.read s.pc.toNat).toNat ≤ 0x000A ∧ s.pc.toNat ≤ 4094

section
variable {s : State} {op : Opcode}

theorem pushesAtZero_iff (hw : s.mem.read s.pc.toNat = op.word) : PushesAtZero s ↔ op = .push ∧ s.sp = 0 := by
  have hpush : op.word = 0x000D#16 ↔ op = .push := ⟨fun h => Opcode.word_inj h, fun h => by rw [h]; rfl⟩
  rw [PushesAtZero, hw, hpush]

theorem fetchesOperand_iff (hw : s.mem.read s.pc.toNat = op.word) :
    FetchesOperand s ↔ op.format = .a ∧ s.pc.toNat ≤ 4094 := by
  rw [FetchesOperand, hw, Opcode.format_eq_a_iff, and_assoc]

theorem FetchesOperand.not_pushesAtZero (h : FetchesOperand s) : ¬ PushesAtZero s := by
  rintro ⟨hw, -⟩
  obtain ⟨-, hle, -⟩ := h
  rw [hw] at hle
  exact absurd hle (by decide)

/-- An illegal word is neither PUSH's nor one that asks for an operand. -/
theorem not_pushesAtZero_of_illegal (hd : decodeOpcode (s.mem.read s.pc.toNat) = none) : ¬ PushesAtZero s := by
  rintro ⟨hw, -⟩
  rw [hw] at hd
  cases hd

theorem not_fetchesOperand_of_illegal (hd : decodeOpcode (s.mem.read s.pc.toNat) = none) : ¬ FetchesOperand s := by
  rintro ⟨-, hle, -⟩
  have := decodeOpcode_eq_none_iff.mp hd
  omega

end

/-- MAR and MBR in `t` are those of the last access that succeeds in a faulting step from `s` (60_exceptions.md R206). -/
inductive LastAccessMirrored (s t : State) : Prop where
  | push (hpush : PushesAtZero s) (h : Mirrors 0 (BitVec.ofInt 16 s.ac) s t)
  | operand (hoperand : FetchesOperand s) (h : Mirrors (s.pc.toNat + 1) (s.mem.read (s.pc.toNat + 1)) s t)
  | opcode (hpush : ¬ PushesAtZero s) (hoperand : ¬ FetchesOperand s) (h : Mirrors s.pc.toNat (s.mem.read s.pc.toNat) s t)

/-- The last access decides MAR and MBR: no step both pushes and fetches an operand. -/
theorem LastAccessMirrored.mirrors {s t : State} (h : LastAccessMirrored s t) :
    (PushesAtZero s → Mirrors 0 (BitVec.ofInt 16 s.ac) s t) ∧
      (FetchesOperand s → Mirrors (s.pc.toNat + 1) (s.mem.read (s.pc.toNat + 1)) s t) ∧
      (¬ PushesAtZero s → ¬ FetchesOperand s → Mirrors s.pc.toNat (s.mem.read s.pc.toNat) s t) := by
  cases h with
  | push hpush hm => exact ⟨fun _ => hm, fun ho => absurd hpush ho.not_pushesAtZero, fun hno _ => absurd hpush hno⟩
  | operand ho hm => exact ⟨fun hpush => absurd hpush ho.not_pushesAtZero, fun _ => hm, fun _ hno => absurd ho hno⟩
  | opcode hpush ho hm => exact ⟨fun h' => absurd h' hpush, fun h' => absurd h' ho, fun _ _ => hm⟩

/-- An increment of SP that gives 0 or more has not wrapped (log 12). -/
theorem wrap_add_one_of_le {mode : WordMode} {v : Int} (hm : InMode mode v) (h : 0 ≤ wrap mode (v + 1)) :
    wrap mode (v + 1) = v + 1 := by
  cases mode with
  | hw16 =>
    refine wrap_add_one hm (.inr ?_)
    rintro rfl
    exact absurd h (by decide)
  | refUnbounded => rfl

namespace StepFaults

variable {s t : State}

theorem lastAccessMirrored {f : Fault} (h : StepFaults s f t) (hp : s.pc.toNat ≤ 4095) : LastAccessMirrored s t := by
  cases h with
  | illegal hd =>
    exact .opcode (not_pushesAtZero_of_illegal hd) (not_fetchesOperand_of_illegal hd) (.of_access s hp rfl rfl rfl)
  | operandFetch hw hformat hlast =>
    refine .opcode ?_ ?_ (.of_access s hp rfl rfl rfl)
    · rw [pushesAtZero_iff hw]
      rintro ⟨rfl, -⟩
      cases hformat
    · rw [fetchesOperand_iff hw]
      omega
  | dataAccess hw hformat hp' =>
    exact .operand ((fetchesOperand_iff hw).mpr ⟨hformat, hp'⟩) (.of_access (fetched s) (by omega) rfl rfl rfl)
  | pushOverflow hw h0 =>
    have hmirror := mirrors_pushed (s := fetched s) (v := s.ac)
      (t := (pushed s.ac (fetched s)).recordFault (.stackOverflow (-1))) (show validAddress s.sp by omega) rfl rfl
    rw [fetched_sp, h0] at hmirror
    exact .push ⟨hw, h0⟩ ⟨hmirror.everyAccess, hmirror.unconstrained⟩
  | pushAccess hw hs =>
    refine .opcode ?_ ?_ (.of_access s hp rfl rfl rfl)
    · rw [pushesAtZero_iff hw]
      omega
    · simp [fetchesOperand_iff hw, Opcode.format]
  | slotAccess hw | popUnderflow hw | popAccess hw =>
    refine .opcode ?_ ?_ (.of_access s hp rfl rfl rfl)
    · simp [pushesAtZero_iff hw]
    · simp [fetchesOperand_iff hw, Opcode.format]

/-! The rows of R206: SP, memory and what the fault records. -/

theorem illegalOpcode_row {w : Word} (h : StepFaults s (.illegalOpcode w) t) :
    w = s.mem.read s.pc.toNat ∧ t.sp = s.sp ∧ SameMemory s t := by
  cases h
  exact ⟨rfl, rfl, fun _ => rfl⟩

/-- POP alone moves SP before its address fault. -/
theorem addressFault_row {a : Int} (h : StepFaults s (.addressFault a) t) :
    SameMemory s t ∧ (s.mem.read s.pc.toNat ≠ Opcode.pop.word → t.sp = s.sp) ∧
      (s.mem.read s.pc.toNat = Opcode.pop.word → t.sp = a ∧ t.sp < 0) := by
  cases h with
  | operandFetch hw hformat | dataAccess hw hformat =>
    refine ⟨fun _ => rfl, fun _ => rfl, fun hpop => ?_⟩
    obtain rfl := Opcode.word_inj (hw.symm.trans hpop)
    cases hformat
  | slotAccess hw | pushAccess hw =>
    refine ⟨fun _ => rfl, fun _ => rfl, fun hpop => ?_⟩
    cases Opcode.word_inj (hw.symm.trans hpop)
  | popAccess hw hn h =>
    subst hn
    exact ⟨fun _ => rfl, fun hne => absurd hw hne, fun _ => ⟨rfl, h⟩⟩

theorem stackOverflow_row {v : Int} (h : StepFaults s (.stackOverflow v) t) (hm : s.mem.wf = true) :
    s.mem.read s.pc.toNat = Opcode.push.word ∧ v = -1 ∧ t.sp = -1 ∧ t.mem.read 0 = BitVec.ofInt 16 s.ac ∧
      SameMemoryBut 0 s t := by
  cases h with
  | pushOverflow hw h0 =>
    have hslot : (fetched s).sp.toNat = 0 := by rw [fetched_sp, h0]; rfl
    have hsp : (pushed s.ac (fetched s)).sp = -1 := by
      rw [pushed_sp (s := fetched s) (show validAddress s.sp by omega), fetched_sp, h0]
      rfl
    rw [← hslot]
    exact ⟨hw, rfl, hsp, read_pushed_self (s := fetched s) hm _, fun _ => read_pushed_of_ne (s := fetched s) hm _⟩

theorem stackUnderflow_row {v : Int} (h : StepFaults s (.stackUnderflow v) t) (hm : InMode s.config.wordMode s.sp) :
    s.mem.read s.pc.toNat = Opcode.pop.word ∧ v = s.sp + 1 ∧ t.sp = s.sp + 1 ∧ 4096 ≤ t.sp ∧ SameMemory s t := by
  cases h with
  | popUnderflow hw hn h =>
    subst hn
    have hsp := wrap_add_one_of_le hm (by omega)
    exact ⟨hw, hsp, hsp, h, fun _ => rfl⟩

end StepFaults

/-- Settles O42: the common part, the row of the fault, and MAR and MBR by the last access. -/
theorem faultingStepLeavesTableState : Obligations.FaultingStepLeavesTableState := by
  unfold Obligations.FaultingStepLeavesTableState
  intro s t f hi h hf
  obtain ⟨hr, hp, hx⟩ := step_faults h hf
  rw [hx.ir]
  refine ⟨by rw [hx.pc, fetched_pc_toNat hp], rfl, hx.ac, hx.sameFlags, hx.run.trans hr, ?_, (hx.lastAccessMirrored hp).mirrors⟩
  cases f with
  | illegalOpcode w => exact hx.illegalOpcode_row
  | addressFault a => exact hx.addressFault_row
  | stackOverflow v => exact hx.stackOverflow_row hi.memWf
  | stackUnderflow v => exact hx.stackUnderflow_row hi.spRange

/-! ### The advisory mnemonic -/

theorem peek_of_opcode {s : State} {op : Opcode} (hp : s.pc.toNat ≤ 4095) (hw : s.mem.read s.pc.toNat = op.word) :
    peekNextInstructionName s = op.mnemonic := by
  rw [peekNextInstructionName, if_pos (show s.pc.toNat < memWords from Nat.lt_succ_of_le hp), hw, decodeOpcode_word]

theorem peek_of_illegal {s : State} (hp : s.pc.toNat ≤ 4095) (hd : decodeOpcode (s.mem.read s.pc.toNat) = none) :
    peekNextInstructionName s = "none" := by
  rw [peekNextInstructionName, if_pos (show s.pc.toNat < memWords from Nat.lt_succ_of_le hp), hd]

theorem peek_of_offEnd {s : State} (hp : 4096 ≤ s.pc.toNat) : peekNextInstructionName s = "none" := by
  rw [peekNextInstructionName, if_neg (show ¬ s.pc.toNat < memWords from Nat.not_lt_of_le hp)]

/-- Settles O58. -/
theorem peekNamesNextInstruction : Obligations.PeekNamesNextInstruction := by
  unfold Obligations.PeekNamesNextInstruction
  exact ⟨fun _ _ => peek_of_opcode, fun _ hp hw => peek_of_illegal hp (decodeOpcode_eq_none_iff.mpr hw),
    fun _ => peek_of_offEnd, fun _ _ => rfl⟩

end Sys2Proof.Machine
end

section
/-! SUPPORT. LOCO: the register width alone says how the constant K is extended (42_direct.md R155). -/

namespace Sys2Proof.Machine

/-- Under HW16 a word used as a number is stored in AC as its two's-complement value (00_scope.md R11). -/
theorem wrap_hw16_zext16 (k : Word) : wrap .hw16 (zext16 k) = k.toInt := by
  rw [wrap_hw16, mask16_zext16, sext16_eq_toInt]

theorem setAC_zext16_of_hw16 {s : State} (h : s.config.wordMode = .hw16) (k : Word) :
    (s.setAC (zext16 k)).ac = k.toInt := by
  rw [State.setAC_ac, h, wrap_hw16_zext16]

theorem setAC_zext16_of_refUnbounded {s : State} (h : s.config.wordMode = .refUnbounded) (k : Word) :
    (s.setAC (zext16 k)).ac = (k.toNat : Int) := by
  rw [State.setAC_ac, h, wrap_refUnbounded, zext16]

/-- Settles O12: LOCO is one write of AC and the move past the operand, and the word mode decides what the write stores. -/
theorem locoLoadsConstant : Obligations.LocoLoadsConstant := by
  unfold Obligations.LocoLoadsConstant
  refine ⟨fun _ => rfl, operandFetchFaults rfl, fun k s => ?_⟩
  exact ⟨_, exec_loco k s, fun h => setAC_zext16_of_hw16 h k, fun h => setAC_zext16_of_refUnbounded h k, ⟨rfl, rfl⟩, rfl, rfl,
    ⟨rfl, rfl, rfl⟩, ⟨rfl, rfl⟩, fun _ => rfl, ⟨rfl, rfl, rfl⟩⟩

end Sys2Proof.Machine
end

section
/-! SUPPORT. The jumps: each is `jumpIf` on its own condition and writes PC alone (43_jumps.md R170-R174). -/

namespace Sys2Proof.Machine

/-- Settles O13: JPOS is `jumpIf` on the bit that says N and Z are both false. -/
theorem jposJumpsIfPositive : Obligations.JposJumpsIfPositive := by
  unfold Obligations.JposJumpsIfPositive
  refine ⟨fun _ => rfl, operandFetchFaults rfl, fun a s => ?_⟩
  have hcondition : (!s.flagN && !s.flagZ) = true ↔ s.flagN = false ∧ s.flagZ = false := by
    rw [Bool.and_eq_true, Bool.not_eq_true', Bool.not_eq_true']
  rw [exec_jpos, State.jumpIf_eq, if_congr hcondition rfl rfl]

/-- Settles O14: JUMP is one write of PC. -/
theorem jumpAlwaysJumps : Obligations.JumpAlwaysJumps := by
  unfold Obligations.JumpAlwaysJumps
  exact ⟨fun _ => rfl, operandFetchFaults rfl, exec_jump⟩

/-- Settles O15: JZER is `jumpIf` on Z itself. -/
theorem jzerJumpsIfZero : Obligations.JzerJumpsIfZero := by
  unfold Obligations.JzerJumpsIfZero
  refine ⟨fun _ => rfl, operandFetchFaults rfl, fun a s => ?_⟩
  rw [exec_jzer, State.jumpIf_eq]

/-- Settles O16: JNEG is `jumpIf` on N itself. -/
theorem jnegJumpsIfNegative : Obligations.JnegJumpsIfNegative := by
  unfold Obligations.JnegJumpsIfNegative
  refine ⟨fun _ => rfl, operandFetchFaults rfl, fun a s => ?_⟩
  rw [exec_jneg, State.jumpIf_eq]

end Sys2Proof.Machine
end

section
/-! SUPPORT. ADDL: the access at SP decides between one write of AC and AddressFault(SP) (44_stack.md R180). -/

namespace Sys2Proof.Machine

theorem exec_addl_valid {s : State} (h : validAddress s.sp) :
    exec .addl s = .next ((s.mirror s.sp.toNat (s.mem.read s.sp.toNat)).setAC (s.ac + zext16 (s.mem.read s.sp.toNat))) := by
  rw [exec_addl, if_pos h]

theorem exec_addl_invalid {s : State} (h : ¬ validAddress s.sp) :
    exec .addl s = .next (s.recordFault (.addressFault s.sp)) := by
  rw [exec_addl, if_neg h]

/-- Settles O17, by whether SP is an address of the memory. -/
theorem addlAddsWordAtSp : Obligations.AddlAddsWordAtSp := by
  unfold Obligations.AddlAddsWordAtSp
  refine ⟨rfl, fun s h0 h4095 => ?_, fun s houtside => ?_⟩
  · exact ⟨_, exec_addl_valid ⟨h0, h4095⟩, rfl, ⟨rfl, rfl⟩, rfl, rfl, ⟨rfl, rfl, rfl⟩, ⟨rfl, rfl⟩, fun _ => rfl,
      .of_access s (by omega) rfl rfl rfl⟩
  · exact ⟨_, exec_addl_invalid (by omega), faultsOnly_recordFault _ s⟩

end Sys2Proof.Machine
end

section
/-! SUPPORT. HALT and the two no-ops: each is Format N, so a step that fetches one is its execute phase on the state the fetch leaves
(45_system.md R190-R192). -/

namespace Sys2Proof.Machine

/-- A change of RUN in the execute phase comes from HALT alone (45_system.md R190). -/
theorem Executes.eq_halt_of_run_ne {s t : State} {i : Instr} (h : Executes s i t) (hrun : t.run ≠ s.run) : i = .halt := by
  cases h with
  | halts => rfl
  | _ => exact absurd rfl hrun

theorem step_of_fetches_halt {s : State} (hF : Fetches .halt s) : step s = .next (fetched s).stop := by
  rw [step_of_formatN hF.running hF.inRange hF.opcodeWord rfl]
  exact exec_halt (fetched s)

/-- Settles O21: the further step is that of a halted engine with nothing raised. -/
theorem haltStopsTheEngine : Obligations.HaltStopsTheEngine := by
  unfold Obligations.HaltStopsTheEngine
  refine ⟨rfl, exec_halt, fun i s t he => (executes he).eq_halt_of_run_ne, fun s hF => ?_⟩
  have hagain : step (fetched s).stop = .next (fetched s).stop := by
    rw [step_of_halted (State.stop_run _), State.clearRaised_eq_self rfl]
  exact ⟨_, step_of_fetches_halt hF, State.stepResult_eq_stopped_iff.mpr ⟨rfl, rfl⟩, rfl, fetched_pc_toNat hF.inRange,
    hF.opcodeWord, hagain⟩

theorem exec_idle {op : Opcode} (hop : op = .ins ∨ op = .out) (k : Word) (s : State) : exec (op.instr k) s = .next s := by
  rcases hop with rfl | rfl
  · exact exec_ins s
  · exact exec_out s

theorem step_of_fetches_idle {s : State} {op : Opcode} (hop : op = .ins ∨ op = .out) (hF : Fetches op s) :
    step s = .next (fetched s) := by
  have hformat : op.format = .n := format_of_mem_idleOpcodes op (by simpa [idleOpcodes] using hop)
  rw [step_of_formatN hF.running hF.inRange hF.opcodeWord hformat, exec_idle hop]

/-- Settles O22: the step answers the state the fetch leaves, whose MAR and MBR mirror the fetch of the opcode word. -/
theorem insAndOutDoNothing : Obligations.InsAndOutDoNothing := by
  unfold Obligations.InsAndOutDoNothing
  refine ⟨rfl, rfl, fun s => ⟨exec_ins s, exec_out s⟩, fun s op hop hF => ?_⟩
  have hmirror : Mirrors s.pc.toNat op.word s (fetched s) := by
    rw [← hF.opcodeWord]
    exact .of_access s hF.inRange rfl rfl rfl
  exact ⟨_, step_of_fetches_idle hop hF, State.stepResult_eq_continued_iff.mpr ⟨hF.running, rfl⟩, hF.opcodeWord,
    fetched_pc_toNat hF.inRange, hmirror, rfl, rfl, ⟨rfl, rfl⟩, fun _ => rfl, rfl, rfl, rfl⟩

end Sys2Proof.Machine
end

section
/-! SUPPORT. The faults: the sticky record, what a step makes of the record it finds, and the points where AddressFault is raised
(60_exceptions.md R201, R207-R209). -/

namespace Sys2Proof.Machine

/-! ### The fault record -/

/-- A fault goes into the record when it is raised, and nothing else writes the record (60_exceptions.md R208). -/
theorem Executes.faultRecord {s t : State} {i : Instr} (h : Executes s i t) (hq : s.raised = none) :
    t.faultRecord = s.faultRecord.or t.raised := by
  cases h with
  | accessFault | overflows | popFault => rfl
  | _ => exact Option.or_none.symm.trans (congrArg s.faultRecord.or hq.symm)

theorem step_faultRecord {s t : State} (h : step s = .next t) : t.faultRecord = s.faultRecord.or t.raised := by
  rcases step_cases h with ⟨-, rfl⟩ | ⟨-, -, rfl⟩ | ⟨-, -, -, rfl⟩ | ⟨op, -, -, -, -, hx⟩ | ⟨op, -, -, -, -, rfl⟩ |
    ⟨op, -, -, -, -, hx⟩
  · exact Option.or_none.symm
  · exact Option.or_none.symm
  · rfl
  · exact (executes hx).faultRecord rfl
  · rfl
  · exact (executes hx).faultRecord rfl

/-- Settles O34. -/
theorem faultRecordIsSticky : Obligations.FaultRecordIsSticky := by
  unfold Obligations.FaultRecordIsSticky
  refine ⟨fun s t h => ?_, fun _ => rfl, fun words s t h => ?_⟩
  · rw [step_faultRecord h]
    cases s.faultRecord <;> rfl
  · obtain ⟨-, rfl⟩ := hostLoad_eq_next h
    rfl

/-! ### A step does not read the record -/

/-- `s` with another fault record. -/
def State.withRecord (q : Option Fault) (s : State) : State :=
  { s with faultRecord := q }

/-- Which way a jump goes does not depend on the record. -/
theorem State.jumpIf_withRecord (q : Option Fault) (c : Bool) (target : Word) (s : State) :
    (s.withRecord q).jumpIf c target = (s.jumpIf c target).withRecord q := by
  cases c <;> rfl

/-- Where `x` answers a next state, `y` answers that state but for the fault record. -/
def AnswersButRecord (x y : Host.Outcome State Fault Refusal) : Prop :=
  ∀ t, x = .next t → ∃ q, y = .next (t.withRecord q)

theorem AnswersButRecord.next (t : State) (q : Option Fault) : AnswersButRecord (.next t) (.next (t.withRecord q)) := by
  intro t' ht
  cases ht
  exact ⟨q, rfl⟩

theorem AnswersButRecord.ite {c : Prop} [Decidable c] {x x' y y' : Host.Outcome State Fault Refusal}
    (h : AnswersButRecord x y) (h' : AnswersButRecord x' y') :
    AnswersButRecord (if c then x else x') (if c then y else y') := by
  by_cases hc : c
  · simpa only [if_pos hc] using h
  · simpa only [if_neg hc] using h'

/-- The execute phase writes the record only in `recordFault`, and reads it nowhere else. -/
theorem exec_withRecord (i : Instr) (s : State) (q : Option Fault) :
    AnswersButRecord (exec i s) (exec i (s.withRecord q)) := by
  cases i with
  | lodd | stod | addd | subd | stodl | addl =>
    simp only [exec_lodd, exec_stod, exec_addd, exec_subd, exec_stodl, exec_addl]
    exact .ite (.next _ q) (.next _ (q.or _))
  | push =>
    simp only [exec_push]
    exact .ite (.next _ (q.or _)) (.ite (.next _ (q.or _)) (.next _ q))
  | pop =>
    simp only [exec_pop]
    exact .ite (.next _ (q.or _)) (.ite (.next _ (q.or _)) (.next _ q))
  | jpos | jzer | jneg =>
    simp only [exec_jpos, exec_jzer, exec_jneg, State.jumpIf_withRecord]
    exact .next _ q
  | loco | jump | insp | halt | ins | out => exact .next _ q

/-- A step empties `raised` before anything else (log 1), and what decides its course is the same whatever is on record. -/
theorem step_withFaults (s : State) (r q : Option Fault) :
    AnswersButRecord (step s) (step { s with raised := r, faultRecord := q }) := by
  intro t h
  rcases step_cases h with ⟨hr, rfl⟩ | ⟨hr, hp, rfl⟩ | ⟨hr, hp, hd, rfl⟩ | ⟨op, hr, hp, hw, hf, hx⟩ |
    ⟨op, hr, hp, hw, hf, rfl⟩ | ⟨op, hr, hp, hw, hf, hx⟩
  · exact ⟨q, step_of_halted hr⟩
  · exact ⟨q, step_of_offEnd hr hp⟩
  · exact ⟨q.or _, step_of_illegal hr hp hd⟩
  · rw [step_of_formatN (s := { s with raised := r, faultRecord := q }) hr hp hw hf]
    exact exec_withRecord _ (fetched s) q t hx
  · exact ⟨q.or _, step_of_operandFault hr hp hw hf⟩
  · rw [step_of_formatA (s := { s with raised := r, faultRecord := q }) hr hp hw hf]
    exact exec_withRecord _ (fetchedOperand s) q t hx

/-- Settles O35: a faulting step is a running one and keeps RUN; reset and load overwrite both fault fields. -/
theorem faultLeavesEngineRunning : Obligations.FaultLeavesEngineRunning := by
  unfold Obligations.FaultLeavesEngineRunning
  refine ⟨fun s t h hne => ?_, fun s t r q h => ?_⟩
  · obtain ⟨f, hf⟩ := Option.ne_none_iff_exists'.mp hne
    obtain ⟨hr, -, hx⟩ := step_faults h hf
    exact ⟨hr, hx.run.trans hr⟩
  · obtain ⟨q', h'⟩ := step_withFaults s r q t h
    exact ⟨_, h', rfl, rfl, fun _ => rfl⟩

/-! ### The points of AddressFault -/

/-- The opcodes with a data access at their operand (42_direct.md R150-R154). -/
def AccessesData (op : Opcode) : Prop :=
  op = .lodd ∨ op = .stod ∨ op = .addd ∨ op = .subd ∨ op = .stodl

theorem AccessesData.format {op : Opcode} (h : AccessesData op) : op.format = .a := by
  rcases h with rfl | rfl | rfl | rfl | rfl <;> rfl

theorem accessesData_of_mem_accessFaulters : ∀ op ∈ accessFaulters, op.format = .a → AccessesData op := by
  unfold AccessesData
  decide

/-- A data access at A >= 4096 faults before anything changes, and at another it raises nothing. -/
theorem exec_accessesData {op : Opcode} (hop : AccessesData op) (k : Word) (s : State) :
    ∃ u, exec (op.instr k) s =
      (if k.toNat ≤ 4095 then .next u else .next (s.recordFault (.addressFault k.toNat))) ∧ u.raised = s.raised := by
  rcases hop with rfl | rfl | rfl | rfl | rfl
  · exact ⟨_, exec_lodd k s, rfl⟩
  · exact ⟨_, exec_stod k s, rfl⟩
  · exact ⟨_, exec_addd k s, rfl⟩
  · exact ⟨_, exec_subd k s, rfl⟩
  · exact ⟨_, exec_stodl k s, rfl⟩

/-- A Format A instruction faults in its data access or not at all. -/
theorem ExecFaults.accessesData {op : Opcode} {k : Word} {s t : State} {f : Fault} (h : ExecFaults s (op.instr k) f t)
    (hformat : op.format = .a) : AccessesData op := by
  generalize hi : op.instr k = i at h
  obtain rfl : op = i.opcode := Opcode.eq_of_instr hi
  cases h with
  | access hop => exact accessesData_of_mem_accessFaulters _ hop hformat
  | pushAccess | pushOverflow | popUnderflow | popAccess => cases hformat

theorem exec_formatA_addressFault_iff {op : Opcode} {k : Word} {s t : State} {a : Int} (hformat : op.format = .a)
    (hq : s.raised = none) (he : exec (op.instr k) s = .next t) :
    t.raised = some (.addressFault a) ↔ AccessesData op ∧ 4096 ≤ k.toNat ∧ a = k.toNat := by
  constructor
  · intro hf
    have hop := (exec_faults hq he hf).accessesData hformat
    obtain ⟨u, e, hu⟩ := exec_accessesData hop k s
    rw [e] at he
    split at he <;> cases he
    · cases (hu.trans hq).symm.trans hf
    · cases hf
      exact ⟨hop, by omega, rfl⟩
  · rintro ⟨hop, hk, rfl⟩
    obtain ⟨u, e, -⟩ := exec_accessesData hop k s
    rw [e, if_neg (by omega)] at he
    cases he
    rfl

theorem exec_addl_addressFault_iff {s t : State} {a : Int} (hq : s.raised = none) (he : exec .addl s = .next t) :
    t.raised = some (.addressFault a) ↔ (s.sp < 0 ∨ 4096 ≤ s.sp) ∧ a = s.sp := by
  by_cases hs : validAddress s.sp
  · rw [exec_addl_valid hs] at he
    cases he
    constructor
    · intro hf
      cases hq.symm.trans hf
    · rintro ⟨hout, -⟩
      omega
  · rw [exec_addl_invalid hs] at he
    cases he
    constructor
    · intro hf
      cases hf
      exact ⟨by omega, rfl⟩
    · rintro ⟨-, rfl⟩
      rfl

theorem step_push_outside {s : State} (hF : Fetches .push s) (hs : ¬ validAddress s.sp) :
    step s = .next ((fetched s).recordFault (.addressFault s.sp)) := by
  obtain ⟨hr, hp, hw⟩ := hF
  exact (step_of_formatN hr hp hw rfl).trans ((exec_push (fetched s)).trans (if_pos hs))

theorem step_pop_below {s : State} (hF : Fetches .pop s) (h : wrap s.config.wordMode (s.sp + 1) < 0) :
    step s = .next ((popped (fetched s)).recordFault (.addressFault (wrap s.config.wordMode (s.sp + 1)))) := by
  obtain ⟨hr, hp, hw⟩ := hF
  exact (step_of_formatN hr hp hw rfl).trans (exec_pop_below h)

/-- In a core's own states the incremented SP is negative only after a wrap, or from an SP that one has left there (log 12). -/
theorem State.Inv.of_wrap_neg {s : State} (hi : s.Inv) (h : wrap s.config.wordMode (s.sp + 1) < 0) :
    s.config.wordMode = .hw16 ∧ (s.sp = 32767 ∨ s.sp < -1) := by
  cases hmode : s.config.wordMode with
  | hw16 =>
    refine ⟨rfl, or_iff_not_imp_left.mpr fun hne => ?_⟩
    have := wrap_add_one hi.spRange (.inr hne)
    omega
  | refUnbounded =>
    have := hi.spFloor hmode
    rw [hmode, wrap_refUnbounded] at h
    omega

/-- Settles O40: `step_faults` gives the point of a fault, and each point decides the step. -/
theorem addressFaultExactlyWhere : Obligations.AddressFaultExactlyWhere := by
  unfold Obligations.AddressFaultExactlyWhere
  refine fun s t a h => ⟨⟨fun hf => ?_, ?_⟩, fun hi _ => hi.of_wrap_neg⟩
  · obtain ⟨hr, hp, hx⟩ := step_faults h hf
    cases hx with
    | operandFetch hw hformat hlast => exact .inl ⟨_, ⟨hr, hp, hw⟩, hformat, hlast, rfl⟩
    | dataAccess hw hformat hp' =>
      rw [step_of_formatA hr hp' hw hformat] at h
      obtain ⟨hop, hk, ha⟩ := (exec_formatA_addressFault_iff hformat rfl h).mp hf
      exact .inr (.inl ⟨_, ⟨hr, hp, hw⟩, hop, hp', hk, ha⟩)
    | slotAccess hw =>
      rw [step_of_formatN hr hp hw rfl] at h
      exact .inr (.inr (.inl ⟨⟨hr, hp, hw⟩, (exec_addl_addressFault_iff rfl h).mp hf⟩))
    | pushAccess hw hs => exact .inr (.inr (.inr (.inl ⟨⟨hr, hp, hw⟩, by omega, rfl⟩)))
    | popAccess hw hn hneg => exact .inr (.inr (.inr (.inr ⟨⟨hr, hp, hw⟩, hn ▸ hneg, hn⟩)))
  · rintro (⟨op, hF, hformat, hlast, rfl⟩ | ⟨op, hF, hop, hp, hk, rfl⟩ | ⟨hF, hs, rfl⟩ | ⟨hF, hs, rfl⟩ | ⟨hF, hneg, rfl⟩)
    · rw [step_of_operandFault hF.running hlast hF.opcodeWord hformat] at h
      cases h
      rfl
    · have hformat := AccessesData.format hop
      rw [step_of_formatA hF.running hp hF.opcodeWord hformat] at h
      exact (exec_formatA_addressFault_iff hformat rfl h).mpr ⟨hop, hk, rfl⟩
    · rw [step_of_formatN hF.running hF.inRange hF.opcodeWord rfl] at h
      exact (exec_addl_addressFault_iff rfl h).mpr ⟨hs, rfl⟩
    · rw [step_push_outside hF (by omega)] at h
      cases h
      rfl
    · rw [step_pop_below hF hneg] at h
      cases h
      rfl

/-- A word in 0x0001..0x000A is the word of a Format A opcode (30_encoding.md R86). -/
theorem exists_formatA_of_word {w : Word} (hlow : 0x0001 ≤ w.toNat) (hhigh : w.toNat ≤ 0x000A) :
    ∃ op : Opcode, w = op.word ∧ op.format = .a := by
  obtain ⟨op, hop⟩ := decodeOpcode_some_of_le (w := w) (by omega)
  obtain rfl := decodeOpcode_eq_some hop
  exact ⟨op, rfl, (Opcode.format_eq_a_iff op).mpr ⟨hlow, hhigh⟩⟩

/-- Settles O43: each condition decides the state the step answers. -/
theorem firstFaultInOrderIsRaised : Obligations.FirstFaultInOrderIsRaised := by
  unfold Obligations.FirstFaultInOrderIsRaised
  refine fun s t hr h => ⟨fun hp => ?_, fun hp hillegal => ?_, fun hlast hlow hhigh => ?_, fun hF hs => ?_, fun hF h0 => ?_,
    fun hF habove => ?_⟩
  · rw [step_of_offEnd hr hp] at h
    cases h
    rfl
  · rw [step_of_illegal hr hp (decodeOpcode_eq_none_iff.mpr hillegal)] at h
    cases h
    rfl
  · obtain ⟨op, hw, hformat⟩ := exists_formatA_of_word hlow hhigh
    rw [step_of_operandFault hr hlast hw hformat] at h
    cases h
    rfl
  · rw [step_push_outside hF (by omega)] at h
    cases h
    rfl
  · exact (step_stackOverflow_iff h).mpr ⟨hF, h0, rfl⟩
  · exact (step_stackUnderflow_iff h).mpr ⟨hF, rfl, habove⟩

end Sys2Proof.Machine
end

section
/-! SUPPORT. Load: what it answers on an image that fits and on a longer one, and each word it leaves in memory
(70_reset_and_hazards.md R231, R232). -/

namespace Sys2Proof.Machine

theorem hostLoad_of_fits {words : List Int} (s : State) (h : words.length ≤ 4096) :
    hostLoad words s = .next (hostReset { s with mem := loadedMemory words }) :=
  if_pos (decide_eq_true h)

theorem hostLoad_of_tooLong {words : List Int} (s : State) (h : 4096 < words.length) :
    hostLoad words s = .refused (.imageTooLong words.length) :=
  if_neg fun hw => Nat.not_le.mpr h (of_decide_eq_true hw)

/-- The default of `getD` stands for the words the image does not reach: they are cleared, and 0 is the mask of 0. -/
theorem loadedMemory_read {words : List Int} (h : words.length ≤ 4096) (a : Nat) :
    (loadedMemory words).read a = mask16 (words.getD a 0) := by
  have hfits : 0 + (words.map mask16).length ≤ 4096 := by simpa using h
  calc (loadedMemory words).read a
      = ((words.map mask16)[a]?).getD (mask16 0) :=
        (Memory.read_writeImage Memory.wf_nil hfits a).trans (if_pos (Nat.zero_le a))
    _ = mask16 (words.getD a 0) := by
        rw [List.getElem?_map, Option.getD_map, List.getD_eq_getElem?_getD]

/-- Settles O56: an image that fits becomes the memory that a reset then keeps, so the registers are those of O57. -/
theorem loadPlacesImageAndResets : Obligations.LoadPlacesImageAndResets := by
  unfold Obligations.LoadPlacesImageAndResets
  refine fun words s => ⟨fun h => ⟨_, hostLoad_of_fits s h, ?_⟩, hostLoad_of_tooLong s⟩
  obtain ⟨hmem, hpc, hac, hsp, hmar, hmbr, hir, hz, hn, hrun, hrecord⟩ :=
    resetKeepsMemory.1 { s with mem := loadedMemory words }
  exact ⟨fun a => (congrArg (Memory.read · a) hmem).trans (loadedMemory_read h a),
    hpc, hac, hsp, hmar, hmbr, hir, hz, hn, hrun, hrecord, rfl, rfl⟩

end Sys2Proof.Machine
end
